-- ==== Sys2Proof/Word.lean ====
section
/-! DEFINITION. The word types of the machine (00_scope.md R7, R10, R11): every value is an unsigned bit vector, and
results are reduced where they are stored. -/

namespace Sys2Proof

/-- A general register, a timer or a memory cell: 8 bits (R7 `REG_W`, `TIMER_W`). -/
abbrev Byte := BitVec 8

/-- An instruction word, `I`, `pc` or a stack entry: 16 bits (R7 `I_W`, `PC_W`, `STACK_W`). -/
abbrev Word := BitVec 16

/-- The field NNN: a 12-bit address (R10, R92). -/
abbrev Addr := BitVec 12

/-- A register number X or Y: 0 to 15 (R92). -/
abbrev Reg := Fin 16

end Sys2Proof
end

