-- ==== Sys2Proof/Syntax.lean ====
section
/-! DEFINITION. The 34 instructions (30_encoding.md R96), one constructor per row of spec/opcode_table.json, named by the row's
digit pattern, which is its canonical name (R100). Every operand has exactly the width of its field (R92), so its range is
part of its type. -/

namespace Sys2Proof

/-- An instruction with its operand fields. `y` of 8XY6 and 8XYE is decoded and has no effect (R95). -/
inductive Instr where
  /-- `CLS`: clear the display (R220). -/
  | op00E0
  /-- `RET`: return (R141). -/
  | op00EE
  /-- `JP nnn` (R142). -/
  | op1NNN (nnn : Addr)
  /-- `CALL nnn` (R143). -/
  | op2NNN (nnn : Addr)
  /-- `SE Vx, nn` (R144). -/
  | op3XNN (x : Reg) (nn : Byte)
  /-- `SNE Vx, nn` (R145). -/
  | op4XNN (x : Reg) (nn : Byte)
  /-- `SE Vx, Vy` (R146). -/
  | op5XY0 (x y : Reg)
  /-- `LD Vx, nn` (R161). -/
  | op6XNN (x : Reg) (nn : Byte)
  /-- `ADD Vx, nn` (R162). -/
  | op7XNN (x : Reg) (nn : Byte)
  /-- `LD Vx, Vy` (R163). -/
  | op8XY0 (x y : Reg)
  /-- `OR Vx, Vy` (R164). -/
  | op8XY1 (x y : Reg)
  /-- `AND Vx, Vy` (R165). -/
  | op8XY2 (x y : Reg)
  /-- `XOR Vx, Vy` (R166). -/
  | op8XY3 (x y : Reg)
  /-- `ADD Vx, Vy` (R167). -/
  | op8XY4 (x y : Reg)
  /-- `SUB Vx, Vy` (R168). -/
  | op8XY5 (x y : Reg)
  /-- `SHR Vx` (R169). -/
  | op8XY6 (x y : Reg)
  /-- `SUBN Vx, Vy` (R170). -/
  | op8XY7 (x y : Reg)
  /-- `SHL Vx` (R171). -/
  | op8XYE (x y : Reg)
  /-- `SNE Vx, Vy` (R147). -/
  | op9XY0 (x y : Reg)
  /-- `LD I, nnn` (R181). -/
  | opANNN (nnn : Addr)
  /-- `JP V0, nnn` (R148). -/
  | opBNNN (nnn : Addr)
  /-- `RND Vx, nn` (R200). -/
  | opCXNN (x : Reg) (nn : Byte)
  /-- `DRW Vx, Vy, n` (R221); `n` counts sprite rows. -/
  | opDXYN (x y : Reg) (n : Fin 16)
  /-- `SKP Vx` (R201). -/
  | opEX9E (x : Reg)
  /-- `SKNP Vx` (R202). -/
  | opEXA1 (x : Reg)
  /-- `LD Vx, DT` (R203). -/
  | opFX07 (x : Reg)
  /-- `LD Vx, K` (R204). -/
  | opFX0A (x : Reg)
  /-- `LD DT, Vx` (R205). -/
  | opFX15 (x : Reg)
  /-- `LD ST, Vx` (R206). -/
  | opFX18 (x : Reg)
  /-- `ADD I, Vx` (R182). -/
  | opFX1E (x : Reg)
  /-- `LD F, Vx` (R183). -/
  | opFX29 (x : Reg)
  /-- `LD B, Vx` (R184). -/
  | opFX33 (x : Reg)
  /-- `LD [I], Vx` (R185). -/
  | opFX55 (x : Reg)
  /-- `LD Vx, [I]` (R186). -/
  | opFX65 (x : Reg)
  deriving DecidableEq, Repr

end Sys2Proof
end

