-- ==== Sys2Proof/Config.lean ====
section
/-! DEFINITION. What is fixed for the machine (00_scope.md R7) and the one free value (10_state.md R46). The parameters the spec
leaves open with a default (R8) are in Machine/Defaults.lean. -/

namespace Sys2Proof.Config

/-- `MEM_SIZE`: bytes of memory (R7). -/
def memSize : Nat := 4096

/-- `PROG_BASE`: load address and reset value of `pc` (R7). -/
def progBase : Nat := 0x200

/-- `PROG_MAX`: the largest program in bytes, 4096 − 0x200 (R7). -/
def progMax : Nat := 3584

/-- `FONT_BASE`: address of the first font byte (R7). -/
def fontBase : Nat := 0x050

/-- `GLYPH_LEN`: bytes of one glyph (R7). -/
def glyphLen : Nat := 5

/-- `DISP_W`: display columns (R7). -/
def dispW : Nat := 64

/-- `DISP_H`: display rows (R7). -/
def dispH : Nat := 32

/-- The random bytes of CXNN (R46): the draw number `n`. A free value, log 1: no body, so nothing can be proved of any
draw, and a statement that mentions one holds whatever it is. Safe. -/
opaque randomByte : Nat → Byte

end Sys2Proof.Config
end

