-- ==== Sys2Proof/WellFormed.lean ====
section
/-! DEFINITION. What is well formed. An instruction's operands have the exact widths of their fields (Syntax.lean), so no
ill-formed instruction can be written; what can be ill formed is a WORD (30_encoding.md R94, R96: it must match a row of the
opcode map) and a program IMAGE (70_reset_and_hazards.md R272, R273: it must fit above 0x200). The opcode map stands here as
R96 prints it, apart from the decoder, which is written from the fields (Decode.lean). -/

namespace Sys2Proof

/-- One row of the opcode map: a word is the row's instruction when its bits under `mask` are `bits` (R94). -/
structure OpcodeRow where
  pattern : String
  bits : Word
  mask : Word
  deriving DecidableEq, Repr

/-- The row of R96 an instruction stands in. -/
def Instr.row : Instr → OpcodeRow
  | .op00E0 => ⟨"00E0", 0x00E0, 0xFFFF⟩
  | .op00EE => ⟨"00EE", 0x00EE, 0xFFFF⟩
  | .op1NNN _ => ⟨"1NNN", 0x1000, 0xF000⟩
  | .op2NNN _ => ⟨"2NNN", 0x2000, 0xF000⟩
  | .op3XNN _ _ => ⟨"3XNN", 0x3000, 0xF000⟩
  | .op4XNN _ _ => ⟨"4XNN", 0x4000, 0xF000⟩
  | .op5XY0 _ _ => ⟨"5XY0", 0x5000, 0xF00F⟩
  | .op6XNN _ _ => ⟨"6XNN", 0x6000, 0xF000⟩
  | .op7XNN _ _ => ⟨"7XNN", 0x7000, 0xF000⟩
  | .op8XY0 _ _ => ⟨"8XY0", 0x8000, 0xF00F⟩
  | .op8XY1 _ _ => ⟨"8XY1", 0x8001, 0xF00F⟩
  | .op8XY2 _ _ => ⟨"8XY2", 0x8002, 0xF00F⟩
  | .op8XY3 _ _ => ⟨"8XY3", 0x8003, 0xF00F⟩
  | .op8XY4 _ _ => ⟨"8XY4", 0x8004, 0xF00F⟩
  | .op8XY5 _ _ => ⟨"8XY5", 0x8005, 0xF00F⟩
  | .op8XY6 _ _ => ⟨"8XY6", 0x8006, 0xF00F⟩
  | .op8XY7 _ _ => ⟨"8XY7", 0x8007, 0xF00F⟩
  | .op8XYE _ _ => ⟨"8XYE", 0x800E, 0xF00F⟩
  | .op9XY0 _ _ => ⟨"9XY0", 0x9000, 0xF00F⟩
  | .opANNN _ => ⟨"ANNN", 0xA000, 0xF000⟩
  | .opBNNN _ => ⟨"BNNN", 0xB000, 0xF000⟩
  | .opCXNN _ _ => ⟨"CXNN", 0xC000, 0xF000⟩
  | .opDXYN _ _ _ => ⟨"DXYN", 0xD000, 0xF000⟩
  | .opEX9E _ => ⟨"EX9E", 0xE09E, 0xF0FF⟩
  | .opEXA1 _ => ⟨"EXA1", 0xE0A1, 0xF0FF⟩
  | .opFX07 _ => ⟨"FX07", 0xF007, 0xF0FF⟩
  | .opFX0A _ => ⟨"FX0A", 0xF00A, 0xF0FF⟩
  | .opFX15 _ => ⟨"FX15", 0xF015, 0xF0FF⟩
  | .opFX18 _ => ⟨"FX18", 0xF018, 0xF0FF⟩
  | .opFX1E _ => ⟨"FX1E", 0xF01E, 0xF0FF⟩
  | .opFX29 _ => ⟨"FX29", 0xF029, 0xF0FF⟩
  | .opFX33 _ => ⟨"FX33", 0xF033, 0xF0FF⟩
  | .opFX55 _ => ⟨"FX55", 0xF055, 0xF0FF⟩
  | .opFX65 _ => ⟨"FX65", 0xF065, 0xF0FF⟩

/-- The rows of R96, in its order, families 0x0 to 0x7. -/
def opcodeRowsLow : List OpcodeRow :=
  [⟨"00E0", 0x00E0, 0xFFFF⟩,
   ⟨"00EE", 0x00EE, 0xFFFF⟩,
   ⟨"1NNN", 0x1000, 0xF000⟩,
   ⟨"2NNN", 0x2000, 0xF000⟩,
   ⟨"3XNN", 0x3000, 0xF000⟩,
   ⟨"4XNN", 0x4000, 0xF000⟩,
   ⟨"5XY0", 0x5000, 0xF00F⟩,
   ⟨"6XNN", 0x6000, 0xF000⟩,
   ⟨"7XNN", 0x7000, 0xF000⟩]

/-- The rows of R96, families 0x8 to 0xD. -/
def opcodeRowsMid : List OpcodeRow :=
  [⟨"8XY0", 0x8000, 0xF00F⟩,
   ⟨"8XY1", 0x8001, 0xF00F⟩,
   ⟨"8XY2", 0x8002, 0xF00F⟩,
   ⟨"8XY3", 0x8003, 0xF00F⟩,
   ⟨"8XY4", 0x8004, 0xF00F⟩,
   ⟨"8XY5", 0x8005, 0xF00F⟩,
   ⟨"8XY6", 0x8006, 0xF00F⟩,
   ⟨"8XY7", 0x8007, 0xF00F⟩,
   ⟨"8XYE", 0x800E, 0xF00F⟩,
   ⟨"9XY0", 0x9000, 0xF00F⟩,
   ⟨"ANNN", 0xA000, 0xF000⟩,
   ⟨"BNNN", 0xB000, 0xF000⟩,
   ⟨"CXNN", 0xC000, 0xF000⟩,
   ⟨"DXYN", 0xD000, 0xF000⟩]

/-- The rows of R96, families 0xE and 0xF. -/
def opcodeRowsHigh : List OpcodeRow :=
  [⟨"EX9E", 0xE09E, 0xF0FF⟩,
   ⟨"EXA1", 0xE0A1, 0xF0FF⟩,
   ⟨"FX07", 0xF007, 0xF0FF⟩,
   ⟨"FX0A", 0xF00A, 0xF0FF⟩,
   ⟨"FX15", 0xF015, 0xF0FF⟩,
   ⟨"FX18", 0xF018, 0xF0FF⟩,
   ⟨"FX1E", 0xF01E, 0xF0FF⟩,
   ⟨"FX29", 0xF029, 0xF0FF⟩,
   ⟨"FX33", 0xF033, 0xF0FF⟩,
   ⟨"FX55", 0xF055, 0xF0FF⟩,
   ⟨"FX65", 0xF065, 0xF0FF⟩]

/-- The complete opcode map (R96). -/
def opcodeRows : List OpcodeRow := opcodeRowsLow ++ opcodeRowsMid ++ opcodeRowsHigh

/-- `(w AND mask) == match` (R94). -/
def OpcodeRow.accepts (r : OpcodeRow) (w : Word) : Bool := w &&& r.mask == r.bits

/-- A word is an instruction exactly when some row accepts it (R94, R97). -/
def wordLegal (w : Word) : Bool := opcodeRows.any (·.accepts w)

/-- A program image fits when it has at most 3584 bytes (R272, R273). -/
def imageFits (image : List Byte) : Bool := image.length ≤ Config.progMax

end Sys2Proof
end

