-- ==== Sys2Proof/Decode.lean ====
section
/-! DEFINITION. Decode and encode (30_encoding.md R90 to R95). The decoder classifies by the top nibble and then by the low
nibble or the low byte (R93) with the strict masks of R94; the encoder lays the fields of R91 side by side. -/

namespace Sys2Proof

/-! ### The fields of an instruction word (R10, R92) -/

/-- `op[15:12]`. -/
def family (w : Word) : BitVec 4 := w.extractLsb' 12 4

/-- `X = op[11:8]`. -/
def fieldX (w : Word) : Reg := (w.extractLsb' 8 4).toFin

/-- `Y = op[7:4]`. -/
def fieldY (w : Word) : Reg := (w.extractLsb' 4 4).toFin

/-- `op[3:0]`, the operation nibble of the formats Z and RR. -/
def lowNibble (w : Word) : BitVec 4 := w.extractLsb' 0 4

/-- `N = op[3:0]`, a count of sprite rows. -/
def fieldN (w : Word) : Fin 16 := (lowNibble w).toFin

/-- `NN = op[7:0]`, also the operation byte of format R. -/
def fieldNN (w : Word) : Byte := w.extractLsb' 0 8

/-- `NNN = op[11:0]`. -/
def fieldNNN (w : Word) : Addr := w.extractLsb' 0 12

/-! ### Decode -/

/-- Family 0x8: the low nibble selects (R96 rows 10 to 18). -/
def decode8 (w : Word) : Option Instr :=
  match lowNibble w with
  | 0x0#4 => some (.op8XY0 (fieldX w) (fieldY w))
  | 0x1#4 => some (.op8XY1 (fieldX w) (fieldY w))
  | 0x2#4 => some (.op8XY2 (fieldX w) (fieldY w))
  | 0x3#4 => some (.op8XY3 (fieldX w) (fieldY w))
  | 0x4#4 => some (.op8XY4 (fieldX w) (fieldY w))
  | 0x5#4 => some (.op8XY5 (fieldX w) (fieldY w))
  | 0x6#4 => some (.op8XY6 (fieldX w) (fieldY w))
  | 0x7#4 => some (.op8XY7 (fieldX w) (fieldY w))
  | 0xE#4 => some (.op8XYE (fieldX w) (fieldY w))
  | _ => none

/-- Family 0xE: the low byte selects (R96 rows 24 and 25). -/
def decodeE (w : Word) : Option Instr :=
  match fieldNN w with
  | 0x9E#8 => some (.opEX9E (fieldX w))
  | 0xA1#8 => some (.opEXA1 (fieldX w))
  | _ => none

/-- Family 0xF: the low byte selects (R96 rows 26 to 34). -/
def decodeF (w : Word) : Option Instr :=
  match fieldNN w with
  | 0x07#8 => some (.opFX07 (fieldX w))
  | 0x0A#8 => some (.opFX0A (fieldX w))
  | 0x15#8 => some (.opFX15 (fieldX w))
  | 0x18#8 => some (.opFX18 (fieldX w))
  | 0x1E#8 => some (.opFX1E (fieldX w))
  | 0x29#8 => some (.opFX29 (fieldX w))
  | 0x33#8 => some (.opFX33 (fieldX w))
  | 0x55#8 => some (.opFX55 (fieldX w))
  | 0x65#8 => some (.opFX65 (fieldX w))
  | _ => none

/-- Family 0x0: all 16 bits select (R94). -/
def decode0 (w : Word) : Option Instr :=
  if w = 0x00E0#16 then some .op00E0
  else if w = 0x00EE#16 then some .op00EE
  else none

/-- Decode (R93): a total function from words to an instruction, or `none` for `Unsupported`. -/
def decode (w : Word) : Option Instr :=
  match family w with
  | 0x0#4 => decode0 w
  | 0x1#4 => some (.op1NNN (fieldNNN w))
  | 0x2#4 => some (.op2NNN (fieldNNN w))
  | 0x3#4 => some (.op3XNN (fieldX w) (fieldNN w))
  | 0x4#4 => some (.op4XNN (fieldX w) (fieldNN w))
  | 0x5#4 => if lowNibble w = 0 then some (.op5XY0 (fieldX w) (fieldY w)) else none
  | 0x6#4 => some (.op6XNN (fieldX w) (fieldNN w))
  | 0x7#4 => some (.op7XNN (fieldX w) (fieldNN w))
  | 0x8#4 => decode8 w
  | 0x9#4 => if lowNibble w = 0 then some (.op9XY0 (fieldX w) (fieldY w)) else none
  | 0xA#4 => some (.opANNN (fieldNNN w))
  | 0xB#4 => some (.opBNNN (fieldNNN w))
  | 0xC#4 => some (.opCXNN (fieldX w) (fieldNN w))
  | 0xD#4 => some (.opDXYN (fieldX w) (fieldY w) (fieldN w))
  | 0xE#4 => decodeE w
  | _ => decodeF w

/-- The word of two fetched bytes, the first (lower address) on top: big-endian (20_memory.md R63). -/
def wordOfBytes (hi lo : Byte) : Word := hi ++ lo

/-- Why bytes are no instruction. -/
inductive DecodeError where
  /-- Fewer than the two bytes an instruction has (R90). -/
  | truncated
  /-- A word that matches no row of R96 (R97). -/
  | unsupported (w : Word)
  deriving DecidableEq, Repr

/-- Decode the instruction at the head of a byte stream: total on any bytes, with the rest of the stream. -/
def decodeBytes : List Byte → Except DecodeError (Instr × List Byte)
  | hi :: lo :: rest =>
    match decode (wordOfBytes hi lo) with
    | some i => .ok (i, rest)
    | none => .error (.unsupported (wordOfBytes hi lo))
  | _ => .error .truncated

/-- The two bytes of a word as memory holds them, high byte first (R63). -/
def bytesOfWord (w : Word) : List Byte := [w.extractLsb' 8 8, w.extractLsb' 0 8]

/-- The instruction the decoder reads from an instruction word numbered as the opcode table numbers it (bit 0 the least
significant; bits from `nbits` up are 0): the word's bytes in memory order, given to the decoder. -/
def decodeTableWord (nbits w : Nat) : Option Instr :=
  match decodeBytes (bytesOfWord (BitVec.ofNat 16 (w % 2 ^ nbits))) with
  | .ok (i, _) => some i
  | .error _ => none

/-! ### Encode (R91, R92) -/

/-- Format A: family and a 12-bit address. -/
def formatA (fam : BitVec 4) (nnn : Addr) : Word := fam ++ nnn

/-- Formats RI and R: family, a register, and an immediate or an operation byte. -/
def formatRI (fam : BitVec 4) (x : Reg) (nn : Byte) : Word := fam ++ (BitVec.ofFin x : BitVec 4) ++ nn

/-- Formats RR and RRN: family, two registers, and an operation nibble or a count. -/
def formatRR (fam : BitVec 4) (x y : Reg) (n : BitVec 4) : Word :=
  fam ++ (BitVec.ofFin x : BitVec 4) ++ (BitVec.ofFin y : BitVec 4) ++ n

/-- The word of an instruction (R91, R96). -/
def encode : Instr → Word
  | .op00E0 => 0x00E0#16
  | .op00EE => 0x00EE#16
  | .op1NNN nnn => formatA 0x1#4 nnn
  | .op2NNN nnn => formatA 0x2#4 nnn
  | .op3XNN x nn => formatRI 0x3#4 x nn
  | .op4XNN x nn => formatRI 0x4#4 x nn
  | .op5XY0 x y => formatRR 0x5#4 x y 0x0#4
  | .op6XNN x nn => formatRI 0x6#4 x nn
  | .op7XNN x nn => formatRI 0x7#4 x nn
  | .op8XY0 x y => formatRR 0x8#4 x y 0x0#4
  | .op8XY1 x y => formatRR 0x8#4 x y 0x1#4
  | .op8XY2 x y => formatRR 0x8#4 x y 0x2#4
  | .op8XY3 x y => formatRR 0x8#4 x y 0x3#4
  | .op8XY4 x y => formatRR 0x8#4 x y 0x4#4
  | .op8XY5 x y => formatRR 0x8#4 x y 0x5#4
  | .op8XY6 x y => formatRR 0x8#4 x y 0x6#4
  | .op8XY7 x y => formatRR 0x8#4 x y 0x7#4
  | .op8XYE x y => formatRR 0x8#4 x y 0xE#4
  | .op9XY0 x y => formatRR 0x9#4 x y 0x0#4
  | .opANNN nnn => formatA 0xA#4 nnn
  | .opBNNN nnn => formatA 0xB#4 nnn
  | .opCXNN x nn => formatRI 0xC#4 x nn
  | .opDXYN x y n => formatRR 0xD#4 x y (BitVec.ofFin n)
  | .opEX9E x => formatRI 0xE#4 x 0x9E#8
  | .opEXA1 x => formatRI 0xE#4 x 0xA1#8
  | .opFX07 x => formatRI 0xF#4 x 0x07#8
  | .opFX0A x => formatRI 0xF#4 x 0x0A#8
  | .opFX15 x => formatRI 0xF#4 x 0x15#8
  | .opFX18 x => formatRI 0xF#4 x 0x18#8
  | .opFX1E x => formatRI 0xF#4 x 0x1E#8
  | .opFX29 x => formatRI 0xF#4 x 0x29#8
  | .opFX33 x => formatRI 0xF#4 x 0x33#8
  | .opFX55 x => formatRI 0xF#4 x 0x55#8
  | .opFX65 x => formatRI 0xF#4 x 0x65#8

end Sys2Proof
end

