-- ==== Sys2Proof/Machine/Defaults.lean ====
section
/-! DEFINITION. The parameters the spec leaves open and gives a default for (00_scope.md R8): the font, with the reset contents of
memory that hold it, and the bit order of a sprite byte. -/

namespace Sys2Proof.Config

/-- `FONT`, digits 0 to 7. -/
def fontLow : List Byte :=
  [0xF0, 0x90, 0x90, 0x90, 0xF0,  0x20, 0x60, 0x20, 0x20, 0x70,
   0xF0, 0x10, 0xF0, 0x80, 0xF0,  0xF0, 0x10, 0xF0, 0x10, 0xF0,
   0x90, 0x90, 0xF0, 0x10, 0x10,  0xF0, 0x80, 0xF0, 0x10, 0xF0,
   0xF0, 0x80, 0xF0, 0x90, 0xF0,  0xF0, 0x10, 0x20, 0x40, 0x40]

/-- `FONT`, digits 8 to F. -/
def fontHigh : List Byte :=
  [0xF0, 0x90, 0xF0, 0x90, 0xF0,  0xF0, 0x90, 0xF0, 0x10, 0xF0,
   0xF0, 0x90, 0xF0, 0x90, 0x90,  0xE0, 0x90, 0xE0, 0x90, 0xE0,
   0xF0, 0x80, 0x80, 0x80, 0xF0,  0xE0, 0x90, 0x90, 0x90, 0xE0,
   0xF0, 0x80, 0xF0, 0x80, 0xF0,  0xF0, 0x80, 0xF0, 0x80, 0x80]

/-- `FONT[0..79]` (R31). PRESUMED (log 2): the spec supplies these bytes as a default from general knowledge (D3, G1).
Unsafe: a claim about a glyph's bytes depends on them. -/
def font : List Byte := fontLow ++ fontHigh

/-- What a byte of memory holds after Initialize, and so what an unlisted address reads as (R45): `FONT` at
0x050 to 0x09F, zero everywhere else. -/
def resetByte (a : Nat) : Byte := if a < fontBase then 0 else font.getD (a - fontBase) 0

/-- The bit of a sprite byte that is drawn at column offset `col` (R222 `SPRITE_MSB_LEFT`). PRESUMED (log 3): bit 7 is
column 0, from general knowledge (D4, G2). Unsafe for a claim that names a column. -/
def spriteBit (col : Nat) : Nat := 7 - col

end Sys2Proof.Config
end

