-- ==== Sys2Proof/Machine/State.lean ====
section
/-! DEFINITION. The state of the core (10_state.md R20), its value right after Initialize (R45), and the ways a step could
stop. Everything is plain data. -/

namespace Sys2Proof.Machine

/-- The run state (R36). -/
inductive RunState where
  | running
  | awaitingKey
  | halted
  deriving DecidableEq, Repr

/-- The kind of an error record (60_exceptions.md R230); `none` says no error since Initialize. -/
inductive ErrKind where
  | none
  | outOfBoundsFetch
  | unsupportedOpcode
  | stackOverflow
  | stackUnderflow
  | outOfBoundsAccess
  | invalidKeyIndex
  deriving DecidableEq, Repr

/-- The error record `err = (kind, pc, op)` (R37). -/
structure ErrRecord where
  kind : ErrKind
  pc : Word
  op : Word
  deriving DecidableEq, Repr

/-- Memory: (address, byte) pairs, addresses strictly rising, none equal to what an unlisted address reads as
(`Config.resetByte`). -/
abbrev Memory := List Host.Cell

/-- The 2048 one-bit display cells, row-major, 64 wide (R32, R33): `disp[y*64 + x]` is bit `x` of row `y`. -/
abbrev Display := Vector (BitVec 64) 32

/-- No step of this machine ends in a fault: each of the six engine errors of R230 has a halt entry the spec describes
(R240), so it is a next state (`State.raise`). Hence there is no constructor. -/
inductive Fault where
  deriving DecidableEq, Repr

/-- Why an operation has no meaning. -/
inductive Refusal where
  /-- Raised by an arm of `exec` whose instruction has no meaning yet; no arm of this model does. Safe. -/
  | notModelled (mnemonic : String)
  /-- Raised by a host operation other than Initialize before the first Initialize (R271). Safe: no value is asserted. -/
  | beforeInitialize
  /-- Raised by LoadProgram after a Step with no Initialize since (R274). Safe: no value is asserted. -/
  | loadOutsideWindow
  deriving DecidableEq, Repr

/-- The complete state (R20), and the model's own count of random draws. -/
structure State where
  /-- `mem[0..4095]` (R30). -/
  mem : Memory
  /-- `V[0..15]` (R21). -/
  v : Vector Byte 16
  /-- `I` (R23). -/
  i : Word
  /-- `pc` (R24): the address of the instruction the next step fetches. -/
  pc : Word
  /-- `stack[0..15]` (R26). -/
  stack : Vector Word 16
  /-- `sp` (R27): how many return addresses are saved, 0 to 16. -/
  sp : Fin 17
  /-- `DT` (R28). -/
  dt : Byte
  /-- `ST` (R29). -/
  st : Byte
  /-- `disp[0..2047]` (R32). -/
  disp : Display
  /-- `key[0..15]` (R34): bit `k` is `key[k]`, set when key `k` is down. -/
  key : BitVec 16
  /-- `redraw` (R35). -/
  redraw : Bool
  /-- `run` (R36). -/
  run : RunState
  /-- `err` (R37). -/
  err : ErrRecord
  /-- The model's own field (log 1): how many random bytes have been drawn (R46). -/
  draws : Nat
  deriving DecidableEq, Repr

/-- The state after Initialize (R45). `draws` is the model's own; its 0 is a DESIGN CHOICE (log 1). -/
def State.reset : State where
  mem := []
  v := Vector.replicate 16 0
  i := 0
  pc := BitVec.ofNat 16 Config.progBase
  stack := Vector.replicate 16 0
  sp := 0
  dt := 0
  st := 0
  disp := Vector.replicate 32 0
  key := 0
  redraw := false
  run := .running
  err := ⟨.none, 0, 0⟩
  draws := 0

end Sys2Proof.Machine
end

