-- ==== Sys2Proof/Machine/Ops.lean ====
section
/-! DEFINITION. The named operations on memory, registers, `pc`, the call stack, the display and the timers, the one halt
entry, and the step cycle built from them. -/

namespace Sys2Proof.Machine

/-- What every meaning answers. -/
abbrev Answer := Host.Outcome State Fault Refusal

/-! ### Memory (20_memory.md) -/

/-- The byte at an address: the listed one, or the reset contents (10_state.md R45). -/
def Memory.read : Memory → Nat → Byte
  | [], a => Config.resetByte a
  | (b, w) :: m, a => if b = a then w else Memory.read m a

/-- Put a cell in front, unless it holds what an unlisted address reads as. -/
def consCell (a : Nat) (b : Byte) (m : Memory) : Memory :=
  if b = Config.resetByte a then m else (a, b) :: m

/-- Set one byte, keeping the canonical form. -/
def Memory.write : Memory → Nat → Byte → Memory
  | [], a, b => consCell a b []
  | (c, w) :: m, a, b =>
    if c < a then (c, w) :: Memory.write m a b
    else if c = a then consCell a b m
    else consCell a b ((c, w) :: m)

/-- Set consecutive bytes from an address up, in address order (R67). -/
def Memory.writeList : Memory → Nat → List Byte → Memory
  | m, _, [] => m
  | m, a, b :: bs => Memory.writeList (Memory.write m a b) (a + 1) bs

/-- `n` consecutive bytes from an address up. -/
def Memory.readList (m : Memory) (a n : Nat) : List Byte := (List.range n).map fun k => Memory.read m (a + k)

/-- The canonical form, above a lower bound of the addresses. -/
def Memory.wfFrom : Nat → Memory → Bool
  | _, [] => true
  | lo, (a, b) :: m =>
    decide (lo ≤ a) && decide (a < Config.memSize) && decide (b ≠ Config.resetByte a) && Memory.wfFrom (a + 1) m

/-- The canonical form: addresses strictly rising and below 4096, no entry equal to its reset byte. -/
def Memory.wf (m : Memory) : Bool := Memory.wfFrom 0 m

/-! ### General registers, index register, program counter (10_state.md R21 to R25) -/

/-- `V[r]`. -/
def State.reg (s : State) (r : Reg) : Byte := s.v[r.val]

/-- `V[r] <- b`. -/
def State.setReg (s : State) (r : Reg) (b : Byte) : State := { s with v := s.v.set r.val b }

/-- The number of `VF` (R22). -/
def vf : Reg := 15

/-- `I <- a`. -/
def State.setIndex (s : State) (a : Word) : State := { s with i := a }

/-- `pc <- a` (R124, a jump). -/
def State.jump (s : State) (a : Word) : State := { s with pc := a }

/-- `pc <- pc + 2` (R124). -/
def State.advance (s : State) : State := s.jump (s.pc + 2)

/-- `pc <- pc + 4` when the condition holds, else `pc <- pc + 2` (R124, R140). -/
def State.skipIf (s : State) (c : Bool) : State := s.jump (if c then s.pc + 4 else s.pc + 2)

/-- Store bytes at consecutive addresses. -/
def State.storeBytes (s : State) (a : Nat) (bs : List Byte) : State := { s with mem := s.mem.writeList a bs }

/-! ### The call stack (R26, R27) -/

/-- Push: `stack[sp] <- a`, then `sp <- sp + 1`; `none` when `sp = 16`. -/
def State.push? (s : State) (a : Word) : Option State :=
  if h : s.sp.val < 16 then
    some { s with stack := s.stack.set s.sp.val a, sp := ⟨s.sp.val + 1, by omega⟩ }
  else none

/-- Pop: `sp <- sp - 1`, then read `stack[sp]`, which keeps its value; `none` when `sp = 0`. -/
def State.pop? (s : State) : Option (Word × State) :=
  if h : 0 < s.sp.val then
    some (s.stack[s.sp.val - 1]'(by have := s.sp.isLt; omega), { s with sp := ⟨s.sp.val - 1, by have := s.sp.isLt; omega⟩ })
  else none

/-! ### Display and timers -/

/-- Install a display and set the redraw flag (R32, R35). -/
def State.showDisplay (s : State) (d : Display) : State := { s with disp := d, redraw := true }

/-- `DT <- b`. -/
def State.setDelay (s : State) (b : Byte) : State := { s with dt := b }

/-- `ST <- b`. -/
def State.setSound (s : State) (b : Byte) : State := { s with st := b }

/-- A timer's decrement: by 1 while above 0 (40_step_cycle.md R125). -/
def tick (b : Byte) : Byte := if b = 0 then 0 else b - 1

/-- The post-step (R125). -/
def State.postStep (s : State) : State := { s with st := tick s.st, dt := tick s.dt }

/-! ### Run state and the halt entry -/

/-- `run <- Running`: what an instruction other than a blocked FX0A leaves (R127, log 27). -/
def State.resume (s : State) : State := { s with run := .running }

/-- `run <- AwaitingKey` (R204). -/
def State.await (s : State) : State := { s with run := .awaitingKey }

/-- The halt entry, the machine's one way of taking an error (60_exceptions.md R240): `err` records the kind, the `pc` of the
failing instruction and its word, `run` becomes Halted, nothing else changes. There is no return (R242). -/
def State.raise (s : State) (kind : ErrKind) (op : Word) : State := { s with run := .halted, err := ⟨kind, s.pc, op⟩ }

/-- The numeric code of an error kind (R230). -/
def ErrKind.code : ErrKind → BitVec 3
  | .none => 0
  | .outOfBoundsFetch => 1
  | .unsupportedOpcode => 2
  | .stackOverflow => 3
  | .stackUnderflow => 4
  | .outOfBoundsAccess => 5
  | .invalidKeyIndex => 6

/-- Go on with `t` when the check holds, else take the error `kind` of instruction `i` in `s` (R123, R241). The recorded word
is the instruction's own (log 26). -/
def checked (ok : Bool) (kind : ErrKind) (i : Instr) (s t : State) : Answer :=
  if ok then .next t else .next (s.raise kind (encode i))

/-! ### Random draws (R46, log 1) -/

/-- `V[x] <- rnd AND nn` for a given draw, counted. -/
def State.drawInto (s : State) (rnd : Byte) (x : Reg) (nn : Byte) : State :=
  { s.setReg x (rnd &&& nn) with draws := s.draws + 1 }

/-! ### The step cycle (40_step_cycle.md R120) -/

/-- Fetch (R121): `none` when `pc + 1 >= 4096`, else the big-endian word at `pc` (20_memory.md R63). -/
def State.fetch (s : State) : Option Word :=
  if Config.memSize ≤ s.pc.toNat + 1 then none
  else some (wordOfBytes (s.mem.read s.pc.toNat) (s.mem.read (s.pc.toNat + 1)))

/-- After an instruction that did not raise, the post-step runs; after one that did, nothing more happens (R120, R126, R240). -/
def State.settle (t : State) : State := if t.run = .halted then t else t.postStep

/-- `settle` on a next state; a step that stops stays stopped. -/
def settleAnswer : Answer → Answer
  | .next t => .next t.settle
  | .fault r => .fault r
  | .refused r => .refused r

/-- One step, given how an instruction executes (R120): nothing while Halted (R128); else fetch, decode, execute from a
Running state (R127), post-step. -/
def cycle (execute : Instr → State → Answer) (s : State) : Answer :=
  match s.run with
  | .halted => .next s
  | _ =>
    match s.fetch with
    | none => .next (s.raise .outOfBoundsFetch 0)
    | some w =>
      match decode w with
      | none => .next (s.raise .unsupportedOpcode w)
      | some i => settleAnswer (execute i s.resume)

/-- The core made runnable with a word at the place of its next fetch: a halted core is resumed with no error, and the two bytes
are stored at `pc` (R63) when a fetch there is possible at all (R121). -/
def State.placeWord (s : State) (w : Word) : State :=
  let r : State := if s.run = .halted then { s with run := .running, err := ⟨.none, 0, 0⟩ } else s
  if Config.memSize ≤ s.pc.toNat + 1 then r else r.storeBytes s.pc.toNat (bytesOfWord w)

end Sys2Proof.Machine
end

