-- ==== Sys2Proof/Machine/Flags.lean ====
section
/-! DEFINITION. The flag computations (10_state.md R38, 42_register_alu.md R172) and the order in which a flag and a result
are written (R160). -/

namespace Sys2Proof.Machine

/-- A condition as a flag value, 1 or 0. -/
def flagByte (c : Bool) : Byte := if c then 1 else 0

/-- Carry out of the 8-bit add: `a + b > 255` (R167). -/
def carryFlag (a b : Byte) : Byte := flagByte (decide (255 < a.toNat + b.toNat))

/-- `a > b`, strict and unsigned (R168). -/
def greaterFlag (a b : Byte) : Byte := flagByte (decide (b.toNat < a.toNat))

/-- `not (a > b)` (R170). -/
def notGreaterFlag (a b : Byte) : Byte := flagByte (decide (a.toNat ≤ b.toNat))

/-- The bit a right shift moves out: `a AND 1` (R169). -/
def shiftRightFlag (a : Byte) : Byte := a &&& 1

/-- The bit a left shift moves out, in place: `a AND 0x80`, 0 or 0x80 (R171, log 18). -/
def shiftLeftFlag (a : Byte) : Byte := a &&& 0x80

/-- The flag first, then the result computed from the registers as the flag write left them (R160, log 4): with `x = 15`
the result overwrites the flag. -/
def State.flagThenReg (s : State) (flag : Byte) (x : Reg) (result : State → Byte) : State :=
  (s.setReg vf flag).setReg x (result (s.setReg vf flag))

end Sys2Proof.Machine
end

