-- ==== Sys2Proof/Machine/Alu.lean ====
section
/-! DEFINITION. Register loads, arithmetic, logic and shifts (42_register_alu.md). All end with `pc <- pc + 2`. -/

namespace Sys2Proof.Machine

/-- 6XNN, load immediate (R161). -/
def exec6XNN (x : Reg) (nn : Byte) (s : State) : Answer := .next (s.setReg x nn).advance

/-- 7XNN, add immediate modulo 256, no flag (R162). -/
def exec7XNN (x : Reg) (nn : Byte) (s : State) : Answer := .next (s.setReg x (s.reg x + nn)).advance

/-- 8XY0, copy (R163). -/
def exec8XY0 (x y : Reg) (s : State) : Answer := .next (s.setReg x (s.reg y)).advance

/-- 8XY1, OR; `VF` is not written (R164). -/
def exec8XY1 (x y : Reg) (s : State) : Answer := .next (s.setReg x (s.reg x ||| s.reg y)).advance

/-- 8XY2, AND (R165). -/
def exec8XY2 (x y : Reg) (s : State) : Answer := .next (s.setReg x (s.reg x &&& s.reg y)).advance

/-- 8XY3, exclusive OR (R166). -/
def exec8XY3 (x y : Reg) (s : State) : Answer := .next (s.setReg x (s.reg x ^^^ s.reg y)).advance

/-- 8XY4, add with carry flag (R167). -/
def exec8XY4 (x y : Reg) (s : State) : Answer :=
  .next (s.flagThenReg (carryFlag (s.reg x) (s.reg y)) x fun t => t.reg x + t.reg y).advance

/-- 8XY5, subtract, flag `V[X] > V[Y]` (R168). -/
def exec8XY5 (x y : Reg) (s : State) : Answer :=
  .next (s.flagThenReg (greaterFlag (s.reg x) (s.reg y)) x fun t => t.reg x - t.reg y).advance

/-- 8XY6, shift right by one (R169); the field Y is ignored (30_encoding.md R95). -/
def exec8XY6 (x _y : Reg) (s : State) : Answer :=
  .next (s.flagThenReg (shiftRightFlag (s.reg x)) x fun t => t.reg x >>> 1).advance

/-- 8XY7, reverse subtract, flag `not (V[X] > V[Y])` (R170). -/
def exec8XY7 (x y : Reg) (s : State) : Answer :=
  .next (s.flagThenReg (notGreaterFlag (s.reg x) (s.reg y)) x fun t => t.reg y - t.reg x).advance

/-- 8XYE, shift left by one, flag 0 or 0x80 (R171); the field Y is ignored (30_encoding.md R95). -/
def exec8XYE (x _y : Reg) (s : State) : Answer :=
  .next (s.flagThenReg (shiftLeftFlag (s.reg x)) x fun t => t.reg x <<< 1).advance

end Sys2Proof.Machine
end

