-- ==== Sys2Proof/Machine/Operands.lean ====
section
/-! DEFINITION. The operand forms: extended addresses, the one data addressing mode, glyph addresses, decimal digits, key
codes, and the registers a block transfer moves. -/

namespace Sys2Proof.Machine

/-- `zext_16(NNN)` (30_encoding.md R92). -/
def addrWord (nnn : Addr) : Word := nnn.setWidth 16

/-- `NNN + V[0]` (41_control_flow.md R148): at most 0x10FE, so nothing is reduced (log 22). -/
def offsetTarget (nnn : Addr) (v0 : Byte) : Word := addrWord nnn + v0.setWidth 16

/-- Whether the bytes `I` to `I + last` all exist (20_memory.md R70): `I + last <= 4095` as integers. -/
def rangeOk (s : State) (last : Nat) : Bool := decide (s.i.toNat + last < Config.memSize)

/-- `I + V[x] mod 65536` (43_index_memory.md R182, log 8). -/
def indexPlus (a : Word) (b : Byte) : Word := a + b.setWidth 16

/-- `0x050 + V[x]*5` (R183), over all eight bits of the register (log 22). -/
def glyphAddress (b : Byte) : Word := BitVec.ofNat 16 (Config.fontBase + b.toNat * Config.glyphLen)

/-- Hundreds, tens and ones of a byte (R184). -/
def bcdDigits (b : Byte) : List Byte :=
  [BitVec.ofNat 8 (b.toNat / 100), BitVec.ofNat 8 (b.toNat / 10 % 10), BitVec.ofNat 8 (b.toNat % 10)]

/-- `V[0], ..., V[x]`, the block FX55 stores (R185). -/
def regBlock (s : State) (x : Reg) : List Byte := s.v.toList.take (x.val + 1)

/-- `V[k] <- bs[k]` for each byte of a list, from register `k` up (R186). -/
def loadFrom (v : Vector Byte 16) : Nat → List Byte → Vector Byte 16
  | _, [] => v
  | k, b :: bs => loadFrom (v.setIfInBounds k b) (k + 1) bs

/-- `I + X + 1`, where FX55 and FX65 leave `I` (R185, R186). -/
def indexPast (a : Word) (x : Reg) : Word := a + BitVec.ofNat 16 (x.val + 1)

/-- `V[x] <= 15`: the register holds a key code (44_random_keys_timers.md R201). -/
def keyCodeOk (b : Byte) : Bool := decide (b.toNat < 16)

/-- `key[c] == 1` (10_state.md R34). -/
def State.keyDown (s : State) (c : Nat) : Bool := s.key.getLsbD c

/-- The least key code that is down, scanning upward (R204). -/
def State.lowestKey (s : State) : Option Nat := (List.range 16).find? fun k => s.keyDown k

end Sys2Proof.Machine
end

