-- ==== Sys2Proof/Machine/Control.lean ====
section
/-! DEFINITION. Control transfer (41_control_flow.md): return, jumps, call and the register-compare skips. -/

namespace Sys2Proof.Machine

/-- 00EE, return (R141): `pc <- popped + 2`. -/
def exec00EE (s : State) : Answer :=
  match s.pop? with
  | none => .next (s.raise .stackUnderflow (encode .op00EE))
  | some (a, t) => .next (t.jump (a + 2))

/-- 1NNN, jump (R142). -/
def exec1NNN (nnn : Addr) (s : State) : Answer := .next (s.jump (addrWord nnn))

/-- 2NNN, call (R143): pushes its own address. -/
def exec2NNN (nnn : Addr) (s : State) : Answer :=
  match s.push? s.pc with
  | none => .next (s.raise .stackOverflow (encode (.op2NNN nnn)))
  | some t => .next (t.jump (addrWord nnn))

/-- BNNN, jump with offset (R148). -/
def execBNNN (nnn : Addr) (s : State) : Answer := .next (s.jump (offsetTarget nnn (s.reg 0)))

/-- 3XNN, skip if equal to the immediate (R144). -/
def exec3XNN (x : Reg) (nn : Byte) (s : State) : Answer := .next (s.skipIf (s.reg x == nn))

/-- 4XNN, skip if not equal to the immediate (R145). -/
def exec4XNN (x : Reg) (nn : Byte) (s : State) : Answer := .next (s.skipIf (s.reg x != nn))

/-- 5XY0, skip if the registers are equal (R146). -/
def exec5XY0 (x y : Reg) (s : State) : Answer := .next (s.skipIf (s.reg x == s.reg y))

/-- 9XY0, skip if the registers differ (R147). -/
def exec9XY0 (x y : Reg) (s : State) : Answer := .next (s.skipIf (s.reg x != s.reg y))

end Sys2Proof.Machine
end

