-- ==== Sys2Proof/Machine/Draw.lean ====
section
/-! DEFINITION. The display instructions (45_display.md). -/

namespace Sys2Proof.Machine

/-- The display with every cell 0. -/
def clearDisplay : Display := Vector.replicate 32 0

/-- Row `y` of the display; there is none below row 31. -/
def displayRow (d : Display) (y : Nat) : BitVec 64 := if h : y < 32 then d[y] else 0

/-- `disp[k] == 1`, for `k` below 2048. -/
def cellLit (d : Display) (k : Nat) : Bool := (displayRow d (k / Config.dispW)).getLsbD (k % Config.dispW)

/-- `disp[k] <- disp[k] XOR 1`, for `k` below 2048. -/
def toggleCell (d : Display) (k : Nat) : Display :=
  d.setIfInBounds (k / Config.dispW) (displayRow d (k / Config.dispW) ^^^ BitVec.twoPow 64 (k % Config.dispW))

/-- The cell of a sprite pixel, wrapped in both axes (R221): `((y0 + row) mod 32)*64 + ((x0 + col) mod 64)`. -/
def spriteCell (x0 y0 : Byte) (row col : Nat) : Nat :=
  (y0.toNat + row) % Config.dispH * Config.dispW + (x0.toNat + col) % Config.dispW

/-- Whether a sprite row has a set bit at a column offset (R222). -/
def spriteBitSet (b : Byte) (col : Nat) : Bool := b.getLsbD (Config.spriteBit col)

/-- One pixel: a set bit flips its cell and counts a collision when the cell was lit (R221). -/
def drawPixel (x0 y0 b : Byte) (row : Nat) (a : Display × Bool) (col : Nat) : Display × Bool :=
  if spriteBitSet b col then
    (toggleCell a.1 (spriteCell x0 y0 row col), a.2 || cellLit a.1 (spriteCell x0 y0 row col))
  else a

/-- One sprite row: its eight columns in order. -/
def drawRow (x0 y0 b : Byte) (row : Nat) (a : Display × Bool) : Display × Bool :=
  (List.range 8).foldl (drawPixel x0 y0 b row) a

/-- The rows of a sprite in order, from row offset `row` down. -/
def drawRows (x0 y0 : Byte) : Nat → List Byte → Display × Bool → Display × Bool
  | _, [], a => a
  | row, b :: bs, a => drawRows x0 y0 (row + 1) bs (drawRow x0 y0 b row a)

/-- The sprite of `n` rows at `I`, drawn at the coordinates `V[x]`, `V[y]`, both read before anything is written
(R221, log 5): the new display and whether there was a collision. -/
def State.sprite (s : State) (x y : Reg) (n : Nat) : Display × Bool :=
  drawRows (s.reg x) (s.reg y) 0 (s.mem.readList s.i.toNat n) (s.disp, false)

/-- Whether every byte of an `n`-row sprite exists; with no row nothing is tested (R221, 20_memory.md R70). -/
def spriteOk (s : State) (n : Nat) : Bool := n == 0 || rangeOk s (n - 1)

/-- 00E0, clear the display (R220). -/
def exec00E0 (s : State) : Answer := .next (s.showDisplay clearDisplay).advance

/-- DXYN, draw a sprite (R221). -/
def execDXYN (x y : Reg) (n : Fin 16) (s : State) : Answer :=
  checked (spriteOk s n.val) .outOfBoundsAccess (.opDXYN x y n) s
    ((s.setReg vf (flagByte (s.sprite x y n.val).2)).showDisplay (s.sprite x y n.val).1).advance

end Sys2Proof.Machine
end

