-- ==== Sys2Proof/Machine/IndexMemory.lean ====
section
/-! DEFINITION. The index register and the transfers between registers and memory (43_index_memory.md). -/

namespace Sys2Proof.Machine

/-- ANNN, load index (R181). -/
def execANNN (nnn : Addr) (s : State) : Answer := .next (s.setIndex (addrWord nnn)).advance

/-- FX1E, add register to index, no flag (R182). -/
def execFX1E (x : Reg) (s : State) : Answer := .next (s.setIndex (indexPlus s.i (s.reg x))).advance

/-- FX29, index of a font glyph (R183). -/
def execFX29 (x : Reg) (s : State) : Answer := .next (s.setIndex (glyphAddress (s.reg x))).advance

/-- FX33, store decimal digits at `I`, `I+1`, `I+2` (R184). -/
def execFX33 (x : Reg) (s : State) : Answer :=
  checked (rangeOk s 2) .outOfBoundsAccess (.opFX33 x) s (s.storeBytes s.i.toNat (bcdDigits (s.reg x))).advance

/-- FX55, store `V[0..X]` at `I` and leave `I` past the block (R185). -/
def execFX55 (x : Reg) (s : State) : Answer :=
  checked (rangeOk s x.val) .outOfBoundsAccess (.opFX55 x) s
    ((s.storeBytes s.i.toNat (regBlock s x)).setIndex (indexPast s.i x)).advance

/-- `V[0..X]` loaded from the bytes at `I` (R186). -/
def State.loadBlock (s : State) (x : Reg) : State :=
  { s with v := loadFrom s.v 0 (s.mem.readList s.i.toNat (x.val + 1)) }

/-- FX65, load `V[0..X]` from `I` and leave `I` past the block (R186). -/
def execFX65 (x : Reg) (s : State) : Answer :=
  checked (rangeOk s x.val) .outOfBoundsAccess (.opFX65 x) s
    ((s.loadBlock x).setIndex (indexPast s.i x)).advance

end Sys2Proof.Machine
end

