-- ==== Sys2Proof/Machine/KeysTimers.lean ====
section
/-! DEFINITION. Random draw, keypad and timers (44_random_keys_timers.md). -/

namespace Sys2Proof.Machine

/-- CXNN, masked random byte (R200): the draw is the free value of log 1. -/
def execCXNN (x : Reg) (nn : Byte) (s : State) : Answer :=
  .next (s.drawInto (Config.randomByte s.draws) x nn).advance

/-- EX9E, skip if the key is down (R201). -/
def execEX9E (x : Reg) (s : State) : Answer :=
  checked (keyCodeOk (s.reg x)) .invalidKeyIndex (.opEX9E x) s (s.skipIf (s.keyDown (s.reg x).toNat))

/-- EXA1, skip if the key is not down (R202). -/
def execEXA1 (x : Reg) (s : State) : Answer :=
  checked (keyCodeOk (s.reg x)) .invalidKeyIndex (.opEXA1 x) s (s.skipIf (!s.keyDown (s.reg x).toNat))

/-- FX07, read the delay timer (R203). -/
def execFX07 (x : Reg) (s : State) : Answer := .next (s.setReg x s.dt).advance

/-- FX0A, wait for a key (R204): the lowest key down is stored; with none down `pc` stays and `run` is AwaitingKey. -/
def execFX0A (x : Reg) (s : State) : Answer :=
  match s.lowestKey with
  | some k => .next (s.setReg x (BitVec.ofNat 8 k)).resume.advance
  | none => .next s.await

/-- FX15, set the delay timer (R205). -/
def execFX15 (x : Reg) (s : State) : Answer := .next (s.setDelay (s.reg x)).advance

/-- FX18, set the sound timer (R206). -/
def execFX18 (x : Reg) (s : State) : Answer := .next (s.setSound (s.reg x)).advance

end Sys2Proof.Machine
end

