-- ==== Sys2Proof/Machine/Step.lean ====
section
/-! DEFINITION. The step of the machine (40_step_cycle.md R120), and how a word is placed where it fetches next. -/

namespace Sys2Proof.Machine

/-- One step, with the random draw of a CXNN left free (log 1). -/
def step (s : State) : Host.Outcome State Fault Refusal := cycle exec s

/-- `s` with the instruction whose table bits are `w` (zero from bit `nbits` up) stored where the next step fetches. -/
def State.withFetchWord (s : State) (nbits w : Nat) : State := s.placeWord (BitVec.ofNat 16 (w % 2 ^ nbits))

end Sys2Proof.Machine
end

