-- ==== Sys2Proof/Machine/Driver.lean ====
section
/-! DEFINITION. The host interface (10_state.md R50 to R55): the seven operations by which the host reaches the core, each
atomic and only between steps, with the windows in which the spec gives them a meaning (70_reset_and_hazards.md R271, R274;
60_exceptions.md R253). -/

namespace Sys2Proof.Machine

/-! ### The operations on the core's state -/

/-- Initialize (R270): every element at its reset value, in any run state. The count of draws goes on, so that no two runs are
assumed to draw the same bytes (R46, log 1). -/
def State.reinit (s : State) : State := { State.reset with draws := s.draws }

/-- LoadProgram (R272): the image copied from 0x200 up; `none` is ProgramTooLargeError, which changes nothing (R273). -/
def State.loadProgram (s : State) (image : List Byte) : Option State :=
  if imageFits image then some (s.storeBytes Config.progBase image) else none

/-- SetKeys (R51): all sixteen entries at once. -/
def State.setKeys (s : State) (k : BitVec 16) : State := { s with key := k }

/-- ClearRedraw (R53). -/
def State.clearRedraw (s : State) : State := { s with redraw := false }

/-- ReadDisplay (R52): the 2048 cells in index order. -/
def State.readDisplay (s : State) : List Bool := (List.range 2048).map fun k => cellLit s.disp k

/-- What ReadStatus returns (R54), with the derived output `sound_active = (ST > 0)`. -/
structure Status where
  redraw : Bool
  run : RunState
  err : ErrRecord
  st : Byte
  soundActive : Bool
  deriving DecidableEq, Repr

/-- ReadStatus (R54). -/
def State.readStatus (s : State) : Status where
  redraw := s.redraw
  run := s.run
  err := s.err
  st := s.st
  soundActive := decide (0 < s.st.toNat)

/-- Execution with the draw of the step given by the host (R46, R120): only CXNN uses it (R129). -/
def execDraw (rnd : Byte) (i : Instr) (s : State) : Answer :=
  match i with
  | .opCXNN x nn => .next (s.drawInto rnd x nn).advance
  | j => exec j s

/-- `Step(rnd)` (R120). `step` is this with the draw left free. -/
def stepWith (rnd : Byte) (s : State) : Answer := cycle (execDraw rnd) s

/-! ### The session -/

/-- Where a session stands. -/
inductive Session where
  /-- Before the first Initialize: the core's state is unspecified (R271). -/
  | off
  /-- After an Initialize, with no Step since: the window of LoadProgram (R274). -/
  | loading (s : State)
  /-- After a Step. -/
  | stepping (s : State)
  deriving DecidableEq, Repr

/-- The host's moves (R50), and no others (R253). `init` is Initialize. -/
inductive HostOp where
  | init
  | loadProgram (image : List Byte)
  | setKeys (k : BitVec 16)
  | step (rnd : Byte)
  | readDisplay
  | clearRedraw
  | readStatus
  deriving DecidableEq, Repr

/-- What an operation returns to the host. -/
inductive Reply where
  | done
  /-- ProgramTooLargeError (R237, R273). -/
  | programTooLarge
  | display (cells : List Bool)
  | status (st : Status)
  deriving DecidableEq, Repr

/-- The core's state, once there is one. -/
def Session.core? : Session → Option State
  | .off => none
  | .loading s => some s
  | .stepping s => some s

/-- The same phase of the session with another core state. -/
def Session.withCore : Session → State → Session
  | .off, _ => .off
  | .loading _, t => .loading t
  | .stepping _, t => .stepping t

/-- LoadProgram in a session: only in its window (R274). -/
def hostLoad (image : List Byte) : Session → Host.Outcome (Session × Reply) Fault Refusal
  | .off => .refused .beforeInitialize
  | .stepping _ => .refused .loadOutsideWindow
  | .loading s =>
    match s.loadProgram image with
    | some t => .next (.loading t, .done)
    | none => .next (.loading s, .programTooLarge)

/-- Step in a session: the window of LoadProgram closes. -/
def hostStep (rnd : Byte) (s : State) : Host.Outcome (Session × Reply) Fault Refusal :=
  match stepWith rnd s with
  | .next t => .next (.stepping t, .done)
  | .fault r => .fault r
  | .refused r => .refused r

/-- One host operation (R50). -/
def hostOp (op : HostOp) (z : Session) : Host.Outcome (Session × Reply) Fault Refusal :=
  match op, z.core? with
  | .init, none => .next (.loading State.reset, .done)
  | .init, some s => .next (.loading s.reinit, .done)
  | .loadProgram image, _ => hostLoad image z
  | _, none => .refused .beforeInitialize
  | .setKeys k, some s => .next (z.withCore (s.setKeys k), .done)
  | .step rnd, some s => hostStep rnd s
  | .readDisplay, some s => .next (z, .display s.readDisplay)
  | .clearRedraw, some s => .next (z.withCore s.clearRedraw, .done)
  | .readStatus, some s => .next (z, .status s.readStatus)

end Sys2Proof.Machine
end

