-- ==== Sys2Proof/Safety.lean ====
section
/-! DEFINITION. The terms claims are stated in: the invariant of the core, the errors of 60_exceptions.md R230 read off a state
without running it, and a safe step. -/

namespace Sys2Proof.Machine

/-! ### The invariant -/

/-- The largest value `pc` can hold (10_state.md R25). -/
def maxPc : Nat := 0x10FE

/-- `pc` is at most 0x10FE (R25). -/
abbrev State.PcBounded (s : State) : Prop := s.pc.toNat ≤ maxPc

/-- Every live return address passed a fetch, so is at most 4094 (R25, 41_control_flow.md R141). -/
abbrev State.StackBounded (s : State) : Prop := ∀ k : Fin 16, k.val < s.sp.val → s.stack[k.val].toNat ≤ 4094

/-- The error record agrees with the run state: none while the core is not Halted, a kind once it is (R37, R240, R243). -/
abbrev State.ErrAgrees (s : State) : Prop :=
  (s.run = .halted → s.err.kind ≠ .none ∧ s.err.pc = s.pc) ∧ (s.run ≠ .halted → s.err = ⟨.none, 0, 0⟩)

/-- The invariant of the core. -/
abbrev State.Inv (s : State) : Prop :=
  s.mem.wf = true ∧ s.PcBounded ∧ s.StackBounded ∧ s.ErrAgrees

/-! ### Errors, read off the state (60_exceptions.md R230, R238) -/

/-- The one check of an instruction: the error it raises in a state, or `none`. -/
def instrError (i : Instr) (s : State) : ErrKind :=
  match i with
  | .op00EE => if s.sp.val = 0 then .stackUnderflow else .none
  | .op2NNN _ => if s.sp.val = 16 then .stackOverflow else .none
  | .opDXYN _ _ n => if 1 ≤ n.val ∧ 4095 < s.i.toNat + n.val - 1 then .outOfBoundsAccess else .none
  | .opFX33 _ => if 4095 < s.i.toNat + 2 then .outOfBoundsAccess else .none
  | .opFX55 x => if 4095 < s.i.toNat + x.val then .outOfBoundsAccess else .none
  | .opFX65 x => if 4095 < s.i.toNat + x.val then .outOfBoundsAccess else .none
  | .opEX9E x => if 15 < (s.reg x).toNat then .invalidKeyIndex else .none
  | .opEXA1 x => if 15 < (s.reg x).toNat then .invalidKeyIndex else .none
  | _ => .none

/-- The largest offset from `I` an instruction accesses in memory (20_memory.md R70), or `none` when it accesses none: FX33, FX55, FX65,
and DXYN with at least one row. -/
def lastOffset : Instr → Option Nat
  | .opDXYN _ _ n => if 1 ≤ n.val then some (n.val - 1) else none
  | .opFX33 _ => some 2
  | .opFX55 x => some x.val
  | .opFX65 x => some x.val
  | _ => none

/-- The word at `pc` as the integer `mem[pc]*256 + mem[pc+1]` (20_memory.md R63). -/
def wordAtPc (s : State) : Word :=
  BitVec.ofNat 16 ((s.mem.read s.pc.toNat).toNat * 256 + (s.mem.read (s.pc.toNat + 1)).toNat)

/-- The error of a step in a state that is not Halted, in the fixed order fetch, decode, the instruction's check (R238), with
the word it records; `none` when the step raises nothing. -/
def stepError (s : State) : Option (ErrKind × Word) :=
  if 4096 ≤ s.pc.toNat + 1 then some (.outOfBoundsFetch, 0)
  else
    match decode (wordAtPc s) with
    | none => some (.unsupportedOpcode, wordAtPc s)
    | some i => if instrError i s = .none then none else some (instrError i s, wordAtPc s)

/-! ### Sprites (45_display.md R221) -/

/-- Some set bit of the `n`-row sprite at `I`, drawn at `V[x]`, `V[y]`, falls on cell `k`: the pixel of row offset `row` and
column offset `col` is bit `7 - col` of byte `I + row` and lands at row `(V[y] + row) mod 32`, column `(V[x] + col) mod 64`. -/
def SpriteCovers (s : State) (x y : Reg) (n k : Nat) : Prop :=
  ∃ row col, row < n ∧ col < 8 ∧ (s.mem.read (s.i.toNat + row)).getLsbD (7 - col) = true ∧
    k = ((s.reg y).toNat + row) % 32 * 64 + ((s.reg x).toNat + col) % 64

/-- The `n`-row sprite at `I` has a set bit. -/
def SpriteHasSetBit (s : State) (n : Nat) : Prop :=
  ∃ row col, row < n ∧ col < 8 ∧ (s.mem.read (s.i.toNat + row)).getLsbD (7 - col) = true

/-! ### Groups of instructions, for frames -/

/-- 1NNN, BNNN, 3XNN, 4XNN, 5XY0, 9XY0: only `pc` changes. -/
def onlyMovesPc : Instr → Bool
  | .op1NNN _ => true
  | .opBNNN _ => true
  | .op3XNN _ _ => true
  | .op4XNN _ _ => true
  | .op5XY0 _ _ => true
  | .op9XY0 _ _ => true
  | _ => false

/-- 6XNN, 7XNN, 8XY0 to 8XY3, FX07: one destination register and no flag. -/
def plainDest : Instr → Option Reg
  | .op6XNN x _ => some x
  | .op7XNN x _ => some x
  | .op8XY0 x _ => some x
  | .op8XY1 x _ => some x
  | .op8XY2 x _ => some x
  | .op8XY3 x _ => some x
  | .opFX07 x => some x
  | _ => none

/-- 8XY4 to 8XY7 and 8XYE: one destination register and the flag `VF`. -/
def flagDest : Instr → Option Reg
  | .op8XY4 x _ => some x
  | .op8XY5 x _ => some x
  | .op8XY6 x _ => some x
  | .op8XY7 x _ => some x
  | .op8XYE x _ => some x
  | _ => none

/-- ANNN, FX1E, FX29: only `I` and `pc` change. -/
def onlySetsIndex : Instr → Bool
  | .opANNN _ => true
  | .opFX1E _ => true
  | .opFX29 _ => true
  | _ => false

/-! ### Runs -/

/-- The next step executes instruction `i`: the core is not Halted and `i` is what is fetched and decoded. -/
def Executes (s : State) (i : Instr) : Prop := s.run ≠ .halted ∧ ∃ w, s.fetch = some w ∧ decode w = some i

/-- A safe step: a next state, and not Halted. -/
def SafeStep (s : State) : Prop := ∃ t, step s = .next t ∧ t.run ≠ .halted

end Sys2Proof.Machine
end

