-- ==== Sys2Proof/Certificates/Slice0/Obligations.lean ====
section
/-! DEFINITION. The statements for the provers. Each docstring names the rule or section of spec/ it formalises; where a clause
rests on a decision of the spec (D<n> of 92_eei_decisions.md) or on an inference it marks as its own, or on a choice of the
model, the docstring says so and names the entry of notes/assumptions. -/

open Sys2Proof Sys2Proof.Machine

/-! ### Encoding (30_encoding.md) -/

/-- Decoding the word of an instruction gives the instruction, with every operand at every value (sections 1 to 3). -/
def Obligations.DecodeOfEncodeIsTheInstruction : Prop :=
  ∀ i : Instr, decode (encode i) = some i

/-- The word of a decoded instruction is the word it was decoded from: each legal word has one meaning, and an error record
names the fetched word (sections 2 and 3; the strict masks are decision D5: log 17; the record's word is log 26). -/
def Obligations.EncodeOfDecodedWordIsTheWord : Prop :=
  ∀ (w : Word) (i : Instr), decode w = some i → encode i = w

/-- The decoder, written from the fields, agrees with the masks of the opcode map: a row matches a word exactly when the word
decodes to an instruction of that row, and a word is unsupported exactly when no row matches it. The masks are decision D5
(log 17). -/
def Obligations.DecodeAgreesWithTheOpcodeMap : Prop :=
  ∀ w : Word,
    (∀ r ∈ opcodeRows, (w &&& r.mask = r.bits ↔ ∃ i, decode w = some i ∧ i.row = r)) ∧
    (decode w = none ↔ wordLegal w = false)

/-- No two rows of the opcode map match the same word (section 2). -/
def Obligations.OpcodeRowsAreDisjoint : Prop :=
  ∀ (w : Word), ∀ r ∈ opcodeRows, ∀ q ∈ opcodeRows, w &&& r.mask = r.bits → w &&& q.mask = q.bits → r = q

/-- Words written out from the encodings of R96, one or more a format, and illegal words of each family with some (section 4). -/
def Obligations.SampleWordsDecodeAsPrinted : Prop :=
  decodeTableWord 16 0x00EE = some .op00EE ∧
  decodeTableWord 16 0x1ABC = some (.op1NNN 0xABC) ∧
  decodeTableWord 16 0x6A7B = some (.op6XNN 0xA 0x7B) ∧
  decodeTableWord 16 0x81A6 = some (.op8XY6 0x1 0xA) ∧
  decodeTableWord 16 0xD12F = some (.opDXYN 0x1 0x2 0xF) ∧
  decodeTableWord 16 0xE39E = some (.opEX9E 0x3) ∧
  decodeTableWord 16 0xF265 = some (.opFX65 0x2) ∧
  decodeTableWord 16 0x0000 = none ∧ decodeTableWord 16 0x00E1 = none ∧ decodeTableWord 16 0x5231 = none ∧
  decodeTableWord 16 0x8128 = none ∧ decodeTableWord 16 0x9231 = none ∧ decodeTableWord 16 0xE09F = none ∧
  decodeTableWord 16 0xF075 = none

/-! ### The step (40_step_cycle.md) -/

/-- When the word at `pc` decodes to `i`, a step is `exec i` from a Running state, and the post-step follows unless the
instruction raised an error (section 1; that no post-step follows an error is decision D12, log 10; `run` before the instruction is
log 27). -/
def Obligations.StepRunsTheDecodedInstruction : Prop :=
  ∀ (s : State) (w : Word) (i : Instr), s.run ≠ .halted → s.fetch = some w → decode w = some i →
    step s = match exec i { s with run := .running } with
      | .next t =>
        .next (if t.run = .halted then t
          else { t with st := if t.st = 0 then 0 else t.st - 1, dt := if t.dt = 0 then 0 else t.dt - 1 })
      | .fault r => .fault r
      | .refused r => .refused r

/-- A Step while Halted changes nothing (section 3; decision D13, log 11). -/
def Obligations.HaltedStepChangesNothing : Prop :=
  ∀ s : State, s.run = .halted → step s = .next s

/-- A fetch fails exactly when `pc + 1 >= 4096`, with OutOfBoundsFetchError, and otherwise reads the big-endian word of the two
bytes at `pc`, whatever the parity or region of `pc` (section 1; that an odd `pc` is fetched from is decision D11, log 9). -/
def Obligations.FetchReadsTwoBytesOrFails : Prop :=
  ∀ s : State,
    (4096 ≤ s.pc.toNat + 1 →
      s.fetch = none ∧
      (s.run ≠ .halted → ∃ t, step s = .next t ∧ t.run = .halted ∧ t.err.kind = .outOfBoundsFetch)) ∧
    (s.pc.toNat + 1 < 4096 →
      ∃ w, s.fetch = some w ∧
        w.toNat = (s.mem.read s.pc.toNat).toNat * 256 + (s.mem.read (s.pc.toNat + 1)).toNat)

/-- A fetched word that matches no row of the opcode map halts the engine with UnsupportedOpcodeError, recording the word and its
address, and changes nothing else (60_exceptions.md section 1; decisions D5, D12, D14: logs 17, 10, 12). -/
def Obligations.UnsupportedWordHalts : Prop :=
  ∀ (s : State) (w : Word), s.run ≠ .halted → s.fetch = some w → wordLegal w = false →
    step s = .next { s with run := .halted, err := ⟨.unsupportedOpcode, s.pc, w⟩ }

/-- Both timers fall by one in every step that raises nothing, whatever instruction ran, a blocked FX0A included, and stay at 0
there; FX15 and FX18 are seen with the value they wrote already decremented (section 2; decision D21, log 19, and the
inference the spec draws for FX15 and FX18). -/
def Obligations.TimersFallOncePerStep : Prop :=
  ∀ (s t : State) (i : Instr), Executes s i → step s = .next t → t.run ≠ .halted →
    (∀ x, i = .opFX15 x → t.dt.toNat = (s.reg x).toNat - 1) ∧
    ((∀ x, i ≠ .opFX15 x) → t.dt.toNat = s.dt.toNat - 1) ∧
    (∀ x, i = .opFX18 x → t.st.toNat = (s.reg x).toNat - 1) ∧
    ((∀ x, i ≠ .opFX18 x) → t.st.toNat = s.st.toNat - 1)

/-- Errors are precise and ordered: in a state that is not Halted, the error read off the state (fetch, then decode, then the one
check of the instruction) is exactly the one taken, the state after it is the state before it but for `run` and `err`, and
with no such error the step completes without halting (60_exceptions.md sections 1 to 3; decisions D8, D9, D12, D14: logs 6,
7, 10, 12). -/
def Obligations.ErrorsArePreciseAndOrdered : Prop :=
  ∀ s : State, s.run ≠ .halted →
    (∀ k w, stepError s = some (k, w) → step s = .next { s with run := .halted, err := ⟨k, s.pc, w⟩ }) ∧
    (stepError s = none → ∃ t, step s = .next t ∧ t.run ≠ .halted ∧ t.err = s.err)

/-- The run state follows the table of section 3: Halted stays Halted; a step that raises an error halts; otherwise a blocked
FX0A leaves AwaitingKey and everything else leaves Running; Initialize leaves Running from any state (40_step_cycle.md
section 3; the errors are those of decisions D8 and D9 too: logs 6, 7; log 27). -/
def Obligations.RunStateFollowsTheTable : Prop :=
  (∀ s t : State, step s = .next t → s.run = .halted → t.run = .halted) ∧
  (∀ s t : State, step s = .next t → s.run ≠ .halted → stepError s ≠ none → t.run = .halted) ∧
  (∀ (s t : State) (x : Reg), step s = .next t → Executes s (.opFX0A x) → s.key = 0 → t.run = .awaitingKey) ∧
  (∀ (s t : State) (x : Reg), step s = .next t → Executes s (.opFX0A x) → s.key ≠ 0 → t.run = .running) ∧
  (∀ (s t : State) (i : Instr), step s = .next t → Executes s i → stepError s = none → (∀ x, i ≠ .opFX0A x) →
    t.run = .running) ∧
  (∀ s : State, s.reinit.run = .running)

/-! ### Reset and invariants (10_state.md section 10, 70_reset_and_hazards.md section 1) -/

/-- Every element of state at its reset value, at reset and after Initialize in any state (10_state.md section 10; `redraw`, `run`
and `err` by decision D16, log 14; the bytes of the font are the spec's general-knowledge default, log 2). -/
def Obligations.InitializeLeavesTheResetValues : Prop :=
  ∀ t : State, (t = State.reset ∨ ∃ s : State, t = s.reinit) →
    (∀ k, k < 80 → Config.font[k]? = some (t.mem.read (0x050 + k))) ∧
    (∀ a, a < 0x050 ∨ 0x0A0 ≤ a → t.mem.read a = 0) ∧
    (∀ r, t.reg r = 0) ∧ t.i = 0 ∧ t.pc = 0x200 ∧
    (∀ k : Fin 16, t.stack[k.val] = 0) ∧ t.sp = 0 ∧ t.dt = 0 ∧ t.st = 0 ∧
    (∀ k, k < 2048 → cellLit t.disp k = false) ∧ t.key = 0 ∧
    t.redraw = false ∧ t.run = .running ∧ t.err = ⟨.none, 0, 0⟩

/-- The invariant holds at reset and after Initialize in any state (10_state.md sections 3, 6, 8 and 10; that the error record agrees
with the run state there rests on the reset values of `run` and `err`, decision D16: log 14; the record is decision D14: log 12;
the form of memory is the model's). -/
def Obligations.ResetMeetsTheInvariant : Prop :=
  State.reset.Inv ∧ ∀ s : State, s.reinit.Inv

/-- Every step keeps memory in its canonical form: addresses rising and inside 0x000 to 0xFFF, no entry equal to what an unlisted
address reads as (10_state.md section 6, the model's form of `mem`). -/
def Obligations.StepKeepsMemoryCanonical : Prop :=
  ∀ s t : State, s.mem.wf = true → step s = .next t → t.mem.wf = true

/-- Every step keeps `pc` at most 0x10FE and every live return address at most 4094 (10_state.md section 3, an inference the spec
marks as its own). -/
def Obligations.StepKeepsPcAndReturnAddressesBounded : Prop :=
  ∀ s t : State, s.PcBounded → s.StackBounded → step s = .next t → t.PcBounded ∧ t.StackBounded

/-- Every step keeps the error record in agreement with the run state: no error while the engine is not Halted, and a kind and the
`pc` of the offending instruction once it is (60_exceptions.md section 3; decisions D12, D14: logs 10, 12). -/
def Obligations.StepKeepsTheErrorRecord : Prop :=
  ∀ s t : State, s.ErrAgrees → step s = .next t → t.ErrAgrees

/-! ### Whole-machine rules -/

/-- Once the program runs, only FX33 and FX55 change memory, and only the bytes they store (43_index_memory.md section 4). -/
def Obligations.OnlyStoresChangeMemory : Prop :=
  ∀ (s t : State) (a : Nat), s.mem.wf = true → step s = .next t → t.mem.read a ≠ s.mem.read a →
    ∃ x, (Executes s (.opFX33 x) ∧ s.i.toNat ≤ a ∧ a ≤ s.i.toNat + 2) ∨
      (Executes s (.opFX55 x) ∧ s.i.toNat ≤ a ∧ a ≤ s.i.toNat + x.val)

/-- Only 00E0 and DXYN change the display or the redraw flag; no step clears the flag; each of the two that completes sets it
(10_state.md section 7, 45_display.md section 3). -/
def Obligations.OnlyDisplayInstructionsChangeTheDisplay : Prop :=
  (∀ s t : State, step s = .next t → t.disp ≠ s.disp ∨ t.redraw ≠ s.redraw →
    Executes s .op00E0 ∨ ∃ x y n, Executes s (.opDXYN x y n)) ∧
  (∀ s t : State, step s = .next t → s.redraw = true → t.redraw = true) ∧
  (∀ s t : State, step s = .next t → t.run ≠ .halted →
    (Executes s .op00E0 ∨ ∃ x y n, Executes s (.opDXYN x y n)) → t.redraw = true)

/-- The Input State keeps the last value the host wrote: no step changes it, nor does any host operation but SetKeys, which
replaces all of it, and Initialize, which clears it (10_state.md sections 7 and 12). -/
def Obligations.KeysKeepTheLastValueTheHostWrote : Prop :=
  (∀ s t : State, step s = .next t → t.key = s.key) ∧
  (∀ (rnd : Byte) (s t : State), stepWith rnd s = .next t → t.key = s.key) ∧
  (∀ (s t : State) (image : List Byte), s.loadProgram image = some t → t.key = s.key) ∧
  (∀ s : State, s.clearRedraw.key = s.key) ∧
  (∀ (s : State) (k : BitVec 16), (s.setKeys k).key = k) ∧
  (∀ s : State, s.reinit.key = 0)

/-- No instruction reads the sound timer, the redraw flag or the error record: two states that differ only there step to states
that differ only there (10_state.md sections 5, 7 and 8). -/
def Obligations.SoundTimerRedrawAndErrorAreNeverRead : Prop :=
  ∀ (s t : State) (b : Byte) (f : Bool) (e : ErrRecord), step s = .next t →
    ∃ u, step { s with st := b, redraw := f, err := e } = .next u ∧
      { u with st := t.st, redraw := t.redraw, err := t.err } = t

/-- A step is a function of the state and the draw, and the draw matters only when the fetched instruction is CXNN (section 4); that
the machine's step is the step of its free draw is the model's choice (log 1). -/
def Obligations.OnlyCXNNUsesTheDraw : Prop :=
  (∀ (s : State) (q r : Byte), (∀ x nn, ¬ Executes s (.opCXNN x nn)) → stepWith q s = stepWith r s) ∧
  (∀ s : State, step s = stepWith (Config.randomByte s.draws) s)

/-- Once `pc` holds the address of a jump to itself, a step leaves all state unchanged except that the timers fall (and `run` is
Running): with both timers 0 and `run` Running it is a fixed point (70_reset_and_hazards.md section 6; decision D23, log 31). -/
def Obligations.JumpToSelfIsAFixedPoint : Prop :=
  ∀ (s : State) (nnn : Addr), Executes s (.op1NNN nnn) → nnn.toNat = s.pc.toNat →
    ∃ t, step s = .next t ∧ t = { s with run := .running, dt := t.dt, st := t.st } ∧
      t.dt.toNat = s.dt.toNat - 1 ∧ t.st.toNat = s.st.toNat - 1

/-! ### Control transfer (41_control_flow.md) -/

/-- R142: 1NNN installs its target, any 12-bit address, and changes nothing else. -/
def Obligations.JumpInstallsItsTarget : Prop :=
  ∀ (nnn : Addr) (s : State),
    ∃ t, exec (.op1NNN nnn) s = .next t ∧ t = { s with pc := t.pc } ∧ t.pc.toNat = nnn.toNat

/-- BNNN jumps to the integer sum of its address and `V[0]`, not reduced to 12 bits, and changes nothing else (section 2; the sum
taken literally is decision D26, log 22). -/
def Obligations.OffsetJumpAddsRegisterZero : Prop :=
  ∀ (nnn : Addr) (s : State),
    ∃ t, exec (.opBNNN nnn) s = .next t ∧ t = { s with pc := t.pc } ∧
      t.pc.toNat = nnn.toNat + (s.reg 0).toNat

/-- 2NNN with a free entry saves its own address in the next slot, counts it, jumps, and changes nothing else; with sixteen entries it
raises StackOverflowError and nothing changes but `run` and `err` (section 2; the slot written and the slots left alone are
decision D15, log 13; the state after an error is decision D12, log 10). -/
def Obligations.CallSavesItsOwnAddress : Prop :=
  ∀ (nnn : Addr) (s : State),
    (s.sp.val < 16 →
      ∃ t, exec (.op2NNN nnn) s = .next t ∧
        t = { s with stack := t.stack, sp := t.sp, pc := t.pc } ∧
        t.sp.val = s.sp.val + 1 ∧ t.pc.toNat = nnn.toNat ∧
        (∀ k : Fin 16, k.val = s.sp.val → t.stack[k.val] = s.pc) ∧
        (∀ k : Fin 16, k.val ≠ s.sp.val → t.stack[k.val] = s.stack[k.val])) ∧
    (s.sp.val = 16 →
      ∃ t, exec (.op2NNN nnn) s = .next t ∧ t = { s with run := .halted, err := t.err } ∧
        t.err.kind = .stackOverflow)

/-- 00EE with a saved entry completes: it uncounts the entry, continues two past it and changes nothing else, the slot keeping its
value; with none it raises StackUnderflowError and nothing changes but `run` and `err` (section 2; the slot read and its keeping are
decision D15, log 13; the state after an error is decision D12, log 10). -/
def Obligations.ReturnContinuesPastTheSavedAddress : Prop :=
  ∀ s : State,
    (∀ k : Fin 16, s.sp.val = k.val + 1 →
      ∃ t, exec .op00EE s = .next t ∧ t = { s with sp := t.sp, pc := t.pc } ∧
        t.sp.val = k.val ∧ t.pc = s.stack[k.val] + 2) ∧
    (s.sp.val = 0 →
      ∃ t, exec .op00EE s = .next t ∧ t = { s with run := .halted, err := t.err } ∧
        t.err.kind = .stackUnderflow)

/-- A call at address `a` and a return at the same stack depth, with the saved slot as the call left it (whatever a subroutine's own
calls left in the slots above), continue at `a + 2` with the stack pointer of before the call (section 4, an inference the spec marks
as its own; the slots are decision D15, log 13). -/
def Obligations.ReturnUndoesCall : Prop :=
  ∀ (nnn : Addr) (s t u : State), s.sp.val < 16 → exec (.op2NNN nnn) s = .next t →
    u.sp = t.sp → (∀ k : Fin 16, k.val = s.sp.val → u.stack[k.val] = t.stack[k.val]) →
    ∃ r, exec .op00EE u = .next r ∧ r.pc = s.pc + 2 ∧ r.sp = s.sp ∧ r.run = u.run

/-- R144, R145: 3XNN skips exactly when `V[X]` equals the immediate and 4XNN exactly when it does not; only `pc` changes. -/
def Obligations.ImmediateSkipsCompareTheRegister : Prop :=
  ∀ (x : Reg) (nn : Byte) (s : State),
    (s.reg x = nn →
      exec (.op3XNN x nn) s = .next { s with pc := s.pc + 4 } ∧
      exec (.op4XNN x nn) s = .next { s with pc := s.pc + 2 }) ∧
    (s.reg x ≠ nn →
      exec (.op3XNN x nn) s = .next { s with pc := s.pc + 2 } ∧
      exec (.op4XNN x nn) s = .next { s with pc := s.pc + 4 })

/-- R146, R147: 5XY0 skips exactly when the two registers are equal and 9XY0 exactly when they differ; only `pc` changes. -/
def Obligations.RegisterSkipsCompareTheRegisters : Prop :=
  ∀ (x y : Reg) (s : State),
    (s.reg x = s.reg y →
      exec (.op5XY0 x y) s = .next { s with pc := s.pc + 4 } ∧
      exec (.op9XY0 x y) s = .next { s with pc := s.pc + 2 }) ∧
    (s.reg x ≠ s.reg y →
      exec (.op5XY0 x y) s = .next { s with pc := s.pc + 2 } ∧
      exec (.op9XY0 x y) s = .next { s with pc := s.pc + 4 })

/-! ### Registers and arithmetic (42_register_alu.md) -/

/-- R161, R162: 6XNN stores its immediate; 7XNN adds it modulo 256 with no flag; every other register and everything but `pc` is
unchanged. -/
def Obligations.LoadAndAddImmediate : Prop :=
  ∀ (x : Reg) (nn : Byte) (s : State),
    (∃ t, exec (.op6XNN x nn) s = .next t ∧ t = { s with v := t.v, pc := s.pc + 2 } ∧
      t.reg x = nn ∧ ∀ r, r ≠ x → t.reg r = s.reg r) ∧
    (∃ t, exec (.op7XNN x nn) s = .next t ∧ t = { s with v := t.v, pc := s.pc + 2 } ∧
      (t.reg x).toNat = ((s.reg x).toNat + nn.toNat) % 256 ∧ ∀ r, r ≠ x → t.reg r = s.reg r)

/-- R163 to R166: 8XY0 copies, 8XY1, 8XY2 and 8XY3 combine bit by bit; `VF` is not written unless it is the destination; every other
register and everything but `pc` is unchanged. -/
def Obligations.CopyAndLogicWriteOneRegister : Prop :=
  ∀ (x y : Reg) (s : State),
    (∃ t, exec (.op8XY0 x y) s = .next t ∧ t = { s with v := t.v, pc := s.pc + 2 } ∧
      t.reg x = s.reg y ∧ ∀ r, r ≠ x → t.reg r = s.reg r) ∧
    (∃ t, exec (.op8XY1 x y) s = .next t ∧ t = { s with v := t.v, pc := s.pc + 2 } ∧
      (∀ b, (t.reg x).getLsbD b = ((s.reg x).getLsbD b || (s.reg y).getLsbD b)) ∧ ∀ r, r ≠ x → t.reg r = s.reg r) ∧
    (∃ t, exec (.op8XY2 x y) s = .next t ∧ t = { s with v := t.v, pc := s.pc + 2 } ∧
      (∀ b, (t.reg x).getLsbD b = ((s.reg x).getLsbD b && (s.reg y).getLsbD b)) ∧ ∀ r, r ≠ x → t.reg r = s.reg r) ∧
    (∃ t, exec (.op8XY3 x y) s = .next t ∧ t = { s with v := t.v, pc := s.pc + 2 } ∧
      (∀ b, (t.reg x).getLsbD b = ((s.reg x).getLsbD b ^^ (s.reg y).getLsbD b)) ∧ ∀ r, r ≠ x → t.reg r = s.reg r)

/-- 8XY4: `VF` is the carry and `V[X]` the sum modulo 256; with `VF` as an operand the flag is written first and the sum reads it
(sections 1 and 4; the order is decision D6, log 4). -/
def Obligations.AddSetsCarryThenSum : Prop :=
  ∀ (x y : Reg) (s : State) (a b c : Nat), a = (s.reg x).toNat → b = (s.reg y).toNat →
    c = (if a + b > 255 then 1 else 0) →
    ∃ t, exec (.op8XY4 x y) s = .next t ∧ t = { s with v := t.v, pc := s.pc + 2 } ∧
      (∀ r, r ≠ x → r ≠ 15 → t.reg r = s.reg r) ∧
      (x ≠ 15 → y ≠ 15 → (t.reg 15).toNat = c ∧ (t.reg x).toNat = (a + b) % 256) ∧
      (x ≠ 15 → y = 15 → (t.reg 15).toNat = c ∧ (t.reg x).toNat = (a + c) % 256) ∧
      (x = 15 → y ≠ 15 → (t.reg 15).toNat = (c + b) % 256) ∧
      (x = 15 → y = 15 → (t.reg 15).toNat = 2 * c)

/-- 8XY5: `VF` is 1 exactly when `V[X] > V[Y]`, strictly, and `V[X]` the difference modulo 256; with `VF` as an operand the flag is
written first and the difference reads it (sections 1 and 4; the order is decision D6, log 4). -/
def Obligations.SubtractSetsGreaterThenDifference : Prop :=
  ∀ (x y : Reg) (s : State) (a b c : Nat), a = (s.reg x).toNat → b = (s.reg y).toNat →
    c = (if a > b then 1 else 0) →
    ∃ t, exec (.op8XY5 x y) s = .next t ∧ t = { s with v := t.v, pc := s.pc + 2 } ∧
      (∀ r, r ≠ x → r ≠ 15 → t.reg r = s.reg r) ∧
      (x ≠ 15 → y ≠ 15 → (t.reg 15).toNat = c ∧ (t.reg x).toNat = (a + 256 - b) % 256) ∧
      (x ≠ 15 → y = 15 → (t.reg 15).toNat = c ∧ (t.reg x).toNat = (a + 256 - c) % 256) ∧
      (x = 15 → y ≠ 15 → (t.reg 15).toNat = (c + 256 - b) % 256) ∧
      (x = y → (t.reg x).toNat = 0 ∧ (t.reg 15).toNat = 0)

/-- 8XY7: `VF` is 0 exactly when `V[X] > V[Y]` and `V[X]` the reverse difference modulo 256; with `VF` as an operand the flag is
written first and the difference reads it (sections 1 and 4; the order is decision D6, log 4). -/
def Obligations.ReverseSubtractSetsNotGreaterThenDifference : Prop :=
  ∀ (x y : Reg) (s : State) (a b c : Nat), a = (s.reg x).toNat → b = (s.reg y).toNat →
    c = (if a > b then 0 else 1) →
    ∃ t, exec (.op8XY7 x y) s = .next t ∧ t = { s with v := t.v, pc := s.pc + 2 } ∧
      (∀ r, r ≠ x → r ≠ 15 → t.reg r = s.reg r) ∧
      (x ≠ 15 → y ≠ 15 → (t.reg 15).toNat = c ∧ (t.reg x).toNat = (b + 256 - a) % 256) ∧
      (x ≠ 15 → y = 15 → (t.reg 15).toNat = c ∧ (t.reg x).toNat = (c + 256 - a) % 256) ∧
      (x = 15 → y ≠ 15 → (t.reg 15).toNat = (b + 256 - c) % 256) ∧
      (x = 15 → y = 15 → (t.reg 15).toNat = 0)

/-- 8XY6 and 8XYE: `V[X]` moves one place and `VF` gets the bit moved out, in place (0 or 0x80) for the left shift; with X = 15 `VF`
ends 0; the field Y has no effect (section 5; decisions D6 and D20: logs 4, 18). -/
def Obligations.ShiftsMoveOnePlaceAndKeepTheBitOut : Prop :=
  ∀ (x y : Reg) (s : State) (a : Nat), a = (s.reg x).toNat →
    (∃ t, exec (.op8XY6 x y) s = .next t ∧ t = { s with v := t.v, pc := s.pc + 2 } ∧
      (∀ r, r ≠ x → r ≠ 15 → t.reg r = s.reg r) ∧
      (x ≠ 15 → (t.reg 15).toNat = a % 2 ∧ (t.reg x).toNat = a / 2) ∧
      (x = 15 → (t.reg 15).toNat = 0)) ∧
    (∃ t, exec (.op8XYE x y) s = .next t ∧ t = { s with v := t.v, pc := s.pc + 2 } ∧
      (∀ r, r ≠ x → r ≠ 15 → t.reg r = s.reg r) ∧
      (x ≠ 15 → (t.reg 15).toNat = (if a ≥ 128 then 128 else 0) ∧ (t.reg x).toNat = 2 * a % 256) ∧
      (x = 15 → (t.reg 15).toNat = 0))

/-! ### Index register and memory (43_index_memory.md) -/

/-- R181: ANNN stores its 12-bit value in `I`, and only `pc` moves besides. -/
def Obligations.LoadIndexStoresTheAddress : Prop :=
  ∀ (nnn : Addr) (s : State),
    ∃ t, exec (.opANNN nnn) s = .next t ∧ t = { s with i := t.i, pc := s.pc + 2 } ∧ t.i.toNat = nnn.toNat

/-- FX1E adds the register to `I` modulo 65536; FX29 stores `0x050 + 5 V[X]` over all eight bits; neither writes `VF` or anything
else but `pc` (section 2; decisions D10 and D26: logs 8, 22). -/
def Obligations.IndexAddAndGlyphAddress : Prop :=
  ∀ (x : Reg) (s : State),
    (∃ t, exec (.opFX1E x) s = .next t ∧ t = { s with i := t.i, pc := s.pc + 2 } ∧
      t.i.toNat = (s.i.toNat + (s.reg x).toNat) % 65536) ∧
    (∃ t, exec (.opFX29 x) s = .next t ∧ t = { s with i := t.i, pc := s.pc + 2 } ∧
      t.i.toNat = 0x050 + (s.reg x).toNat * 5)

/-- FX33 with `I + 2 <= 4095` stores the hundreds, tens and ones of `V[X]` at `I`, `I+1`, `I+2`, and changes nothing else but `pc`
(section 3; the bounds are decision D8, log 6). -/
def Obligations.BcdStoresThreeDigits : Prop :=
  ∀ (x : Reg) (s : State), s.mem.wf = true → s.i.toNat + 2 ≤ 4095 →
    ∃ t, exec (.opFX33 x) s = .next t ∧ t = { s with mem := t.mem, pc := s.pc + 2 } ∧
      (t.mem.read s.i.toNat).toNat = (s.reg x).toNat / 100 ∧
      (t.mem.read (s.i.toNat + 1)).toNat = (s.reg x).toNat / 10 % 10 ∧
      (t.mem.read (s.i.toNat + 2)).toNat = (s.reg x).toNat % 10 ∧
      ∀ a, a < s.i.toNat ∨ s.i.toNat + 2 < a → t.mem.read a = s.mem.read a

/-- FX55 with `I + X <= 4095` stores `V[0]` to `V[X]` from `I` up, leaves `I` past the block, and changes nothing else but `pc`
(section 3; the bounds are decision D8, log 6). -/
def Obligations.StoreRegistersFillsTheBlock : Prop :=
  ∀ (x : Reg) (s : State), s.mem.wf = true → s.i.toNat + x.val ≤ 4095 →
    ∃ t, exec (.opFX55 x) s = .next t ∧ t = { s with mem := t.mem, i := t.i, pc := s.pc + 2 } ∧
      t.i.toNat = s.i.toNat + x.val + 1 ∧
      (∀ k : Reg, k.val ≤ x.val → t.mem.read (s.i.toNat + k.val) = s.reg k) ∧
      ∀ a, a < s.i.toNat ∨ s.i.toNat + x.val < a → t.mem.read a = s.mem.read a

/-- FX65 with `I + X <= 4095` loads `V[0]` to `V[X]` from `I` up, leaves the registers above X alone and `I` past the block, and
changes nothing else but `pc` (section 3; the bounds are decision D8, log 6). -/
def Obligations.LoadRegistersReadsTheBlock : Prop :=
  ∀ (x : Reg) (s : State), s.i.toNat + x.val ≤ 4095 →
    ∃ t, exec (.opFX65 x) s = .next t ∧ t = { s with v := t.v, i := t.i, pc := s.pc + 2 } ∧
      t.i.toNat = s.i.toNat + x.val + 1 ∧
      (∀ k : Reg, k.val ≤ x.val → t.reg k = s.mem.read (s.i.toNat + k.val)) ∧
      (∀ k : Reg, x.val < k.val → t.reg k = s.reg k)

/-- FX55, then FX65 with the same X over the same memory and the `I` of before, returns the same register values (section 4, an
inference the spec marks as its own). -/
def Obligations.StoreThenLoadReturnsTheRegisters : Prop :=
  ∀ (x : Reg) (s t u : State), s.mem.wf = true → s.i.toNat + x.val ≤ 4095 → exec (.opFX55 x) s = .next t →
    u.mem = t.mem → u.i = s.i →
    ∃ r, exec (.opFX65 x) u = .next r ∧ ∀ k : Reg, k.val ≤ x.val → r.reg k = s.reg k

/-- A byte stored by FX55 is the byte the next fetch of its address sees: two consecutive registers stored are the word fetched
there (20_memory.md section 7, an inference the spec marks as its own). -/
def Obligations.FetchSeesStoredBytes : Prop :=
  ∀ (x j k : Reg) (s t u : State), s.mem.wf = true → s.i.toNat + x.val ≤ 4095 → exec (.opFX55 x) s = .next t →
    k.val = j.val + 1 → k.val ≤ x.val → u.mem = t.mem → u.pc.toNat = s.i.toNat + j.val →
    ∃ w, u.fetch = some w ∧ w.toNat = (s.reg j).toNat * 256 + (s.reg k).toNat

/-- A data access whose last byte lies above 4095 raises OutOfBoundsAccessError before anything changes: FX33, FX55, FX65, and DXYN
with at least one row (20_memory.md section 6; decisions D8, D12, D14: logs 6, 10, 12). -/
def Obligations.OutOfRangeAccessHalts : Prop :=
  (∀ (x : Reg) (s : State), 4095 < s.i.toNat + 2 →
    exec (.opFX33 x) s = .next { s with run := .halted, err := ⟨.outOfBoundsAccess, s.pc, encode (.opFX33 x)⟩ }) ∧
  (∀ (x : Reg) (s : State), 4095 < s.i.toNat + x.val →
    exec (.opFX55 x) s = .next { s with run := .halted, err := ⟨.outOfBoundsAccess, s.pc, encode (.opFX55 x)⟩ } ∧
    exec (.opFX65 x) s = .next { s with run := .halted, err := ⟨.outOfBoundsAccess, s.pc, encode (.opFX65 x)⟩ }) ∧
  (∀ (x y : Reg) (n : Fin 16) (s : State), 1 ≤ n.val → 4095 < s.i.toNat + n.val - 1 →
    exec (.opDXYN x y n) s =
      .next { s with run := .halted, err := ⟨.outOfBoundsAccess, s.pc, encode (.opDXYN x y n)⟩ })

/-! ### Random, keys, timers (44_random_keys_timers.md) -/

/-- CXNN stores the draw masked by its immediate, for every draw the host may give, and `exec` is this with the free draw of the
model (section 1; log 1: the draw has no value a proof can see). Only `pc` and the model's count of draws move besides. -/
def Obligations.RandomByteIsMasked : Prop :=
  ∀ (x : Reg) (nn : Byte) (s : State),
    (∀ rnd : Byte, ∃ t, execDraw rnd (.opCXNN x nn) s = .next t ∧
      t = { s with v := t.v, pc := s.pc + 2, draws := s.draws + 1 } ∧
      t.reg x = rnd &&& nn ∧ ∀ r, r ≠ x → t.reg r = s.reg r) ∧
    (∃ t, exec (.opCXNN x nn) s = .next t ∧
      t = { s with v := t.v, pc := s.pc + 2, draws := s.draws + 1 } ∧
      t.reg x = Config.randomByte s.draws &&& nn ∧ ∀ r, r ≠ x → t.reg r = s.reg r)

/-- EX9E skips exactly when the key `V[X]` is down and EXA1 exactly when it is not, changing only `pc`; a value above 15 raises
InvalidKeyIndexError before anything changes (section 2; decisions D9, D12, D14: logs 7, 10, 12). -/
def Obligations.KeySkipsTestTheKeyLevel : Prop :=
  ∀ (x : Reg) (s : State),
    ((s.reg x).toNat ≤ 15 → s.key.getLsbD (s.reg x).toNat = true →
      exec (.opEX9E x) s = .next { s with pc := s.pc + 4 } ∧
      exec (.opEXA1 x) s = .next { s with pc := s.pc + 2 }) ∧
    ((s.reg x).toNat ≤ 15 → s.key.getLsbD (s.reg x).toNat = false →
      exec (.opEX9E x) s = .next { s with pc := s.pc + 2 } ∧
      exec (.opEXA1 x) s = .next { s with pc := s.pc + 4 }) ∧
    (15 < (s.reg x).toNat →
      exec (.opEX9E x) s = .next { s with run := .halted, err := ⟨.invalidKeyIndex, s.pc, encode (.opEX9E x)⟩ } ∧
      exec (.opEXA1 x) s = .next { s with run := .halted, err := ⟨.invalidKeyIndex, s.pc, encode (.opEXA1 x)⟩ })

/-- FX0A stores the least key that is down, leaves Running and advances (section 2); with none down it leaves AwaitingKey and neither `pc`
nor any register moves. -/
def Obligations.WaitForKeyTakesTheLowestKey : Prop :=
  ∀ (x : Reg) (s : State),
    (∀ k, k < 16 → s.key.getLsbD k = true → (∀ j, j < k → s.key.getLsbD j = false) →
      ∃ t, exec (.opFX0A x) s = .next t ∧ t = { s with v := t.v, run := .running, pc := s.pc + 2 } ∧
        (t.reg x).toNat = k ∧ ∀ r, r ≠ x → t.reg r = s.reg r) ∧
    ((∀ k, k < 16 → s.key.getLsbD k = false) →
      exec (.opFX0A x) s = .next { s with run := .awaitingKey })

/-- FX07 reads the delay timer as it was before this step's decrement; FX15 and FX18 store the register whole (section 3). -/
def Obligations.TimerMovesCopyWholeBytes : Prop :=
  ∀ (x : Reg) (s : State),
    (∃ t, exec (.opFX07 x) s = .next t ∧ t = { s with v := t.v, pc := s.pc + 2 } ∧
      t.reg x = s.dt ∧ ∀ r, r ≠ x → t.reg r = s.reg r) ∧
    exec (.opFX15 x) s = .next { s with dt := s.reg x, pc := s.pc + 2 } ∧
    exec (.opFX18 x) s = .next { s with st := s.reg x, pc := s.pc + 2 }

/-! ### Display (45_display.md) -/

/-- R220: 00E0 clears every cell and sets the redraw flag, also on a clear display; `VF` and everything else but `pc` is unchanged. -/
def Obligations.ClearDisplayClearsEveryCell : Prop :=
  ∀ s : State,
    ∃ t, exec .op00E0 s = .next t ∧ t = { s with disp := t.disp, redraw := true, pc := s.pc + 2 } ∧
      ∀ k, k < 2048 → cellLit t.disp k = false

/-- DXYN flips exactly the cells the sprite's set bits fall on, wrapped in both axes, sets `VF` exactly when one of them was lit before
the instruction, sets the redraw flag (also with no row), and changes nothing else but `pc`; the coordinates are those before
`VF` is written (section 2; decisions D4, D7, D8: logs 3, 5, 6, and the inference that no cell is touched twice). -/
def Obligations.DrawFlipsTheCellsTheSpriteCovers : Prop :=
  ∀ (x y : Reg) (n : Fin 16) (s : State), n.val = 0 ∨ s.i.toNat + n.val - 1 ≤ 4095 →
    ∃ t, exec (.opDXYN x y n) s = .next t ∧
      t = { s with v := t.v, disp := t.disp, redraw := true, pc := s.pc + 2 } ∧
      (∀ r, r ≠ 15 → t.reg r = s.reg r) ∧
      (∀ k, k < 2048 → SpriteCovers s x y n.val k → cellLit t.disp k = !cellLit s.disp k) ∧
      (∀ k, k < 2048 → ¬ SpriteCovers s x y n.val k → cellLit t.disp k = cellLit s.disp k) ∧
      ((∃ k, k < 2048 ∧ cellLit s.disp k = true ∧ SpriteCovers s x y n.val k) → t.reg 15 = 1) ∧
      ((¬ ∃ k, k < 2048 ∧ cellLit s.disp k = true ∧ SpriteCovers s x y n.val k) → t.reg 15 = 0)

/-- Drawing a sprite twice with the same `I`, sprite bytes and coordinates restores the display, and where the sprite covered no lit
cell before, the second draw reports `VF = 1` exactly when the sprite has a set bit (section 3, an inference the spec marks
as its own; the premise on lit cells is the model's, log 33). -/
def Obligations.DrawingTwiceRestoresTheDisplay : Prop :=
  ∀ (x y : Reg) (n : Fin 16) (s t u : State), n.val = 0 ∨ s.i.toNat + n.val - 1 ≤ 4095 →
    exec (.opDXYN x y n) s = .next t → u.disp = t.disp → u.mem = s.mem → u.i = s.i →
    u.reg x = s.reg x → u.reg y = s.reg y →
    ∃ r, exec (.opDXYN x y n) u = .next r ∧ (∀ k, k < 2048 → cellLit r.disp k = cellLit s.disp k) ∧
      ((∀ k, k < 2048 → SpriteCovers s x y n.val k → cellLit s.disp k = false) →
        (r.reg 15 = 1 ↔ SpriteHasSetBit s n.val))

/-- The same sentence of section 3 taken as it stands, without the premise: the second draw reports `VF = 1` exactly when the sprite has
a set bit, whatever was lit before. It is expected to FAIL: a sprite all of whose cells were lit clears them in the first draw
and collides with nothing in the second (log 33). -/
def Obligations.SecondDrawCollidesWhateverWasLit : Prop :=
  ∀ (x y : Reg) (n : Fin 16) (s t u : State), n.val = 0 ∨ s.i.toNat + n.val - 1 ≤ 4095 →
    exec (.opDXYN x y n) s = .next t → u.disp = t.disp → u.mem = s.mem → u.i = s.i →
    u.reg x = s.reg x → u.reg y = s.reg y →
    ∃ r, exec (.opDXYN x y n) u = .next r ∧ (r.reg 15 = 1 ↔ SpriteHasSetBit s n.val)

/-! ### The host's operations (10_state.md section 12, 70_reset_and_hazards.md section 2) -/

/-- An image of at most 3584 bytes is copied byte for byte from 0x200 up, and nothing else changes (70_reset_and_hazards.md section 2);
the canonical form of memory, premise and last clause, is the model's own (log 2). -/
def Obligations.LoadProgramCopiesTheImage : Prop :=
  ∀ (s : State) (image : List Byte), s.mem.wf = true → image.length ≤ 3584 →
    ∃ t, s.loadProgram image = some t ∧ t = { s with mem := t.mem } ∧
      (∀ k (h : k < image.length), t.mem.read (0x200 + k) = image[k]) ∧
      (∀ a, a < 0x200 ∨ 0x200 + image.length ≤ a → t.mem.read a = s.mem.read a) ∧ t.mem.wf = true

/-- R52, R53: ReadDisplay returns the 2048 cells in index order and changes nothing; ClearRedraw clears the flag and changes nothing
else. -/
def Obligations.ReadDisplayAndClearRedraw : Prop :=
  (∀ (s : State) (z : Session), z.core? = some s →
    ∃ cells, hostOp .readDisplay z = .next (z, .display cells) ∧ cells.length = 2048 ∧
      ∀ k, k < 2048 → cells[k]? = some (cellLit s.disp k)) ∧
  (∀ (s : State) (z : Session), z.core? = some s →
    hostOp .clearRedraw z = .next (z.withCore { s with redraw := false }, .done))

/-- The host's windows: before the first Initialize every other operation is refused; a load after a Step is refused; in the window an
image of at most 3584 bytes is accepted, with the effect LoadProgram has on the core, and a longer one is rejected with nothing
changed; SetKeys replaces the keys and ReadStatus reports; a Step closes the window
(decisions D17, D18, D25, D27: logs 15, 16, 21, 23). -/
def Obligations.HostOperationsKeepTheirWindows : Prop :=
  (∀ op, op ≠ .init → hostOp op .off = .refused .beforeInitialize) ∧
  (∀ (s : State) (image : List Byte), hostOp (.loadProgram image) (.stepping s) = .refused .loadOutsideWindow) ∧
  (∀ (s : State) (image : List Byte), image.length ≤ 3584 →
    ∃ t, s.loadProgram image = some t ∧ hostOp (.loadProgram image) (.loading s) = .next (.loading t, .done)) ∧
  (∀ (s : State) (image : List Byte), 3584 < image.length →
    hostOp (.loadProgram image) (.loading s) = .next (.loading s, .programTooLarge)) ∧
  (∀ (s : State) (z : Session) (k : BitVec 16), z.core? = some s →
    hostOp (.setKeys k) z = .next (z.withCore { s with key := k }, .done)) ∧
  (∀ (s : State) (z : Session), z.core? = some s →
    hostOp .readStatus z = .next (z, .status ⟨s.redraw, s.run, s.err, s.st, decide (0 < s.st.toNat)⟩)) ∧
  (∀ (s t : State) (z : Session) (rnd : Byte), z.core? = some s → stepWith rnd s = .next t →
    hostOp (.step rnd) z = .next (.stepping t, .done)) ∧
  (∀ z : Session, ∃ t, hostOp .init z = .next (.loading t, .done) ∧ { t with draws := 0 } = State.reset)

/-! ### Frames -/

/-- What control transfer leaves alone. 1NNN, BNNN, 3XNN, 4XNN, 5XY0, 9XY0 change only `pc`; 00EE changes `sp` and `pc`, 2NNN the
stack, `sp` and `pc`, EX9E and EXA1 `pc`, and each of these four, when it raises, only `run` and `err`. No register, flag,
timer, display cell, key or byte of memory changes (sections 2 to 4, and 44_random_keys_timers.md section 2 for the keys; that 00EE
leaves the popped slot is decision D15, log 13; what an error leaves is decision D12, log 10, and the key error decision D9, log 7). -/
def Obligations.FrameOfControlTransfer : Prop :=
  (∀ (i : Instr) (s t : State), onlyMovesPc i = true → exec i s = .next t →
    t = { s with pc := t.pc } ∧ ∀ a, t.mem.read a = s.mem.read a) ∧
  (∀ s t : State, exec .op00EE s = .next t →
    (t = { s with sp := t.sp, pc := t.pc } ∨ t = { s with run := .halted, err := t.err }) ∧
    ∀ a, t.mem.read a = s.mem.read a) ∧
  (∀ (nnn : Addr) (s t : State), exec (.op2NNN nnn) s = .next t →
    (t = { s with stack := t.stack, sp := t.sp, pc := t.pc } ∨ t = { s with run := .halted, err := t.err }) ∧
    ∀ a, t.mem.read a = s.mem.read a) ∧
  (∀ (x : Reg) (s t : State), exec (.opEX9E x) s = .next t ∨ exec (.opEXA1 x) s = .next t →
    (t = { s with pc := t.pc } ∨ t = { s with run := .halted, err := t.err }) ∧
    ∀ a, t.mem.read a = s.mem.read a)

/-- What computation leaves alone. 6XNN, 7XNN, 8XY0 to 8XY3 and FX07 change one register; 8XY4 to 8XY7 and 8XYE one register and `VF`;
CXNN one register and the model's count of draws; FX0A one register and `run`; ANNN, FX1E and FX29 only `I`; FX15 and FX18 one
timer; FX65 the registers up to X and `I`, or, when it raises, only `run` and `err`. Besides `pc` nothing else changes, and no
byte of memory does (the error of FX65 is decision D8, log 6, and what it leaves decision D12, log 10; the count of draws is log 1). -/
def Obligations.FrameOfComputation : Prop :=
  (∀ (i : Instr) (x : Reg) (s t : State), plainDest i = some x → exec i s = .next t →
    t = { s with v := t.v, pc := t.pc } ∧ (∀ r, r ≠ x → t.reg r = s.reg r) ∧ ∀ a, t.mem.read a = s.mem.read a) ∧
  (∀ (i : Instr) (x : Reg) (s t : State), flagDest i = some x → exec i s = .next t →
    t = { s with v := t.v, pc := t.pc } ∧ (∀ r, r ≠ x → r ≠ 15 → t.reg r = s.reg r) ∧
    ∀ a, t.mem.read a = s.mem.read a) ∧
  (∀ (x : Reg) (nn : Byte) (s t : State), exec (.opCXNN x nn) s = .next t →
    t = { s with v := t.v, pc := t.pc, draws := t.draws } ∧ (∀ r, r ≠ x → t.reg r = s.reg r) ∧
    ∀ a, t.mem.read a = s.mem.read a) ∧
  (∀ (x : Reg) (s t : State), exec (.opFX0A x) s = .next t →
    t = { s with v := t.v, pc := t.pc, run := t.run } ∧ (∀ r, r ≠ x → t.reg r = s.reg r) ∧
    ∀ a, t.mem.read a = s.mem.read a) ∧
  (∀ (i : Instr) (s t : State), onlySetsIndex i = true → exec i s = .next t →
    t = { s with i := t.i, pc := t.pc } ∧ ∀ a, t.mem.read a = s.mem.read a) ∧
  (∀ (x : Reg) (s t : State), exec (.opFX15 x) s = .next t →
    t = { s with dt := t.dt, pc := t.pc } ∧ ∀ a, t.mem.read a = s.mem.read a) ∧
  (∀ (x : Reg) (s t : State), exec (.opFX18 x) s = .next t →
    t = { s with st := t.st, pc := t.pc } ∧ ∀ a, t.mem.read a = s.mem.read a) ∧
  (∀ (x : Reg) (s t : State), exec (.opFX65 x) s = .next t →
    (t = { s with v := t.v, i := t.i, pc := t.pc } ∨ t = { s with run := .halted, err := t.err }) ∧
    (∀ r : Reg, x.val < r.val → t.reg r = s.reg r) ∧ ∀ a, t.mem.read a = s.mem.read a)

/-- What stores leave alone. FX33 stores three bytes from `I` and changes only memory and `pc`; FX55 stores X + 1 bytes from `I` and
changes only memory, `I` and `pc`; either, when it raises, changes only `run` and `err`. Every byte outside the stored ones
reads as before (the error is decision D8, log 6, and what it leaves decision D12, log 10; the canonical form of memory in the premise
is the model's own, log 2). -/
def Obligations.FrameOfStores : Prop :=
  (∀ (x : Reg) (s t : State), s.mem.wf = true → exec (.opFX33 x) s = .next t →
    (t = { s with mem := t.mem, pc := t.pc } ∨ t = { s with run := .halted, err := t.err }) ∧
    ∀ a, ¬ (s.i.toNat ≤ a ∧ a < s.i.toNat + 3) → t.mem.read a = s.mem.read a) ∧
  (∀ (x : Reg) (s t : State), s.mem.wf = true → exec (.opFX55 x) s = .next t →
    (t = { s with mem := t.mem, i := t.i, pc := t.pc } ∨ t = { s with run := .halted, err := t.err }) ∧
    ∀ a, ¬ (s.i.toNat ≤ a ∧ a < s.i.toNat + (x.val + 1)) → t.mem.read a = s.mem.read a)

/-- What the display instructions leave alone. 00E0 changes the display, `redraw` and `pc`; DXYN these and `VF`, or, when it raises, only
`run` and `err`. No other register and no byte of memory changes (the error is decision D8, log 6, and what it leaves decision D12, log 10). -/
def Obligations.FrameOfDisplayInstructions : Prop :=
  (∀ s t : State, exec .op00E0 s = .next t →
    t = { s with disp := t.disp, redraw := t.redraw, pc := t.pc } ∧ ∀ a, t.mem.read a = s.mem.read a) ∧
  (∀ (x y : Reg) (n : Fin 16) (s t : State), exec (.opDXYN x y n) s = .next t →
    (t = { s with v := t.v, disp := t.disp, redraw := t.redraw, pc := t.pc } ∨
      t = { s with run := .halted, err := t.err }) ∧
    (∀ r, r ≠ 15 → t.reg r = s.reg r) ∧ ∀ a, t.mem.read a = s.mem.read a)

/-! ### The codes of the error register (60_exceptions.md section 1) -/

/-- The codes of the error register, each at the error it names: 0 at reset and after Initialize, 1 for a fetch out of bounds, 2 for an
unsupported word, 3 for a call with sixteen entries, 4 for a return with none, 5 for a data access above 4095, 6 for a key code
above 15 (60_exceptions.md section 1; the numbers are decision D14, log 12, and the errors 5 and 6 decisions D8 and D9, logs 6
and 7; reset is D16, log 14; the masks are D5, log 17). -/
def Obligations.ErrorCodesAreThoseOfTheTable : Prop :=
  State.reset.err.kind.code = 0 ∧ (∀ s : State, s.reinit.err.kind.code = 0) ∧
  (∀ s : State, s.run ≠ .halted → 4096 ≤ s.pc.toNat + 1 →
    ∃ t, step s = .next t ∧ t.run = .halted ∧ t.err.kind.code = 1) ∧
  (∀ (s : State) (w : Word), s.run ≠ .halted → s.fetch = some w → wordLegal w = false →
    ∃ t, step s = .next t ∧ t.run = .halted ∧ t.err.kind.code = 2) ∧
  (∀ (nnn : Addr) (s : State), s.sp.val = 16 →
    ∃ t, exec (.op2NNN nnn) s = .next t ∧ t.run = .halted ∧ t.err.kind.code = 3) ∧
  (∀ s : State, s.sp.val = 0 → ∃ t, exec .op00EE s = .next t ∧ t.run = .halted ∧ t.err.kind.code = 4) ∧
  (∀ (i : Instr) (last : Nat) (s : State), lastOffset i = some last → 4095 < s.i.toNat + last →
    ∃ t, exec i s = .next t ∧ t.run = .halted ∧ t.err.kind.code = 5) ∧
  (∀ (i : Instr) (x : Reg) (s : State), i = .opEX9E x ∨ i = .opEXA1 x → 15 < (s.reg x).toNat →
    ∃ t, exec i s = .next t ∧ t.run = .halted ∧ t.err.kind.code = 6)
end

