-- ==== Sys2Proof/Laws/Display.lean ====
section
/-! SUPPORT. Display cells: reading a cell after a clear or a toggle, and the range of a sprite's cells. -/

namespace Sys2Proof.Machine

/-- A clear display has no lit cell. -/
@[simp] theorem cellLit_clear (k : Nat) : cellLit clearDisplay k = false := by
  unfold cellLit displayRow clearDisplay
  split <;> simp

/-- The rows after a toggle. -/
theorem displayRow_toggleCell (d : Display) (k y : Nat) (hk : k < 2048) :
    displayRow (toggleCell d k) y =
      if y = k / Config.dispW then displayRow d y ^^^ BitVec.twoPow 64 (k % Config.dispW) else displayRow d y := by
  have hr : k / Config.dispW < 32 := by simp only [Config.dispW]; omega
  unfold toggleCell
  by_cases hy : y = k / Config.dispW
  · subst hy
    simp [displayRow, hr]
  · have hy' : k / Config.dispW ≠ y := fun h => hy h.symm
    by_cases h32 : y < 32
    · simp [displayRow, h32, hy, hy']
    · simp [displayRow, h32, hy]

/-- Toggling a cell flips it and leaves every other alone. -/
theorem cellLit_toggleCell (d : Display) (k j : Nat) (hk : k < 2048) :
    cellLit (toggleCell d k) j = (cellLit d j ^^ decide (j = k)) := by
  have hk' : k % Config.dispW < 64 := Nat.mod_lt _ (by decide)
  unfold cellLit
  rw [displayRow_toggleCell d k _ hk]
  by_cases he : j / Config.dispW = k / Config.dispW
  · have hiff : (k % Config.dispW = j % Config.dispW) ↔ j = k := by simp only [Config.dispW] at *; omega
    rw [if_pos he, BitVec.getLsbD_xor, BitVec.getLsbD_twoPow]
    simp [hk', hiff]
  · have hne : j ≠ k := fun h => he (by rw [h])
    simp [he, hne]

/-- A sprite pixel's cell is on the display (20_memory.md R69). -/
theorem spriteCell_lt (x0 y0 : Byte) (row col : Nat) : spriteCell x0 y0 row col < 2048 := by
  simp only [spriteCell, Config.dispH, Config.dispW]
  omega

end Sys2Proof.Machine
end

