-- ==== Sys2Proof/Laws/Fields.lean ====
section
/-! SUPPORT. The fields of the encoder's formats, read back one at a time; the words rebuilt from their fields; the bytes of a
word. -/

namespace Sys2Proof

/-! ### Format A -/

@[simp] theorem family_formatA (fam : BitVec 4) (nnn : Addr) : family (formatA fam nnn) = fam := by
  apply BitVec.eq_of_getLsbD_eq
  intro i hi
  simp only [family, formatA, BitVec.getLsbD_extractLsb', BitVec.getLsbD_append]; simp [hi]

@[simp] theorem fieldNNN_formatA (fam : BitVec 4) (nnn : Addr) : fieldNNN (formatA fam nnn) = nnn := by
  apply BitVec.eq_of_getLsbD_eq
  intro i hi
  simp only [fieldNNN, formatA, BitVec.getLsbD_extractLsb', BitVec.getLsbD_append]; simp [hi]

/-! ### Formats RI and R -/

@[simp] theorem family_formatRI (fam : BitVec 4) (x : Reg) (nn : Byte) : family (formatRI fam x nn) = fam := by
  apply BitVec.eq_of_getLsbD_eq
  intro i hi
  simp only [family, formatRI, BitVec.getLsbD_extractLsb', BitVec.getLsbD_append]; rw [if_neg (by omega), if_neg (by omega), show 12 + i - 8 - 4 = i by omega]
  simp [hi]

@[simp] theorem fieldX_formatRI (fam : BitVec 4) (x : Reg) (nn : Byte) : fieldX (formatRI fam x nn) = x := by
  have h : (formatRI fam x nn).extractLsb' 8 4 = (BitVec.ofFin x : BitVec 4) := by
    apply BitVec.eq_of_getLsbD_eq
    intro i hi
    simp only [formatRI, BitVec.getLsbD_extractLsb', BitVec.getLsbD_append]; simp [hi]
  simp [fieldX, h]

@[simp] theorem fieldNN_formatRI (fam : BitVec 4) (x : Reg) (nn : Byte) : fieldNN (formatRI fam x nn) = nn := by
  apply BitVec.eq_of_getLsbD_eq
  intro i hi
  simp only [fieldNN, formatRI, BitVec.getLsbD_extractLsb', BitVec.getLsbD_append]; simp [hi]

/-! ### Formats RR and RRN -/

@[simp] theorem family_formatRR (fam : BitVec 4) (x y : Reg) (n : BitVec 4) : family (formatRR fam x y n) = fam := by
  apply BitVec.eq_of_getLsbD_eq
  intro i hi
  simp only [family, formatRR, BitVec.getLsbD_extractLsb', BitVec.getLsbD_append]; rw [if_neg (by omega), if_neg (by omega), if_neg (by omega), show 12 + i - 4 - 4 - 4 = i by omega]
  simp [hi]

@[simp] theorem fieldX_formatRR (fam : BitVec 4) (x y : Reg) (n : BitVec 4) : fieldX (formatRR fam x y n) = x := by
  have h : (formatRR fam x y n).extractLsb' 8 4 = (BitVec.ofFin x : BitVec 4) := by
    apply BitVec.eq_of_getLsbD_eq
    intro i hi
    simp only [formatRR, BitVec.getLsbD_extractLsb', BitVec.getLsbD_append]; rw [if_neg (by omega), if_neg (by omega), if_pos (by omega), show 8 + i - 4 - 4 = i by omega]
    simp [hi]
  simp [fieldX, h]

@[simp] theorem fieldY_formatRR (fam : BitVec 4) (x y : Reg) (n : BitVec 4) : fieldY (formatRR fam x y n) = y := by
  have h : (formatRR fam x y n).extractLsb' 4 4 = (BitVec.ofFin y : BitVec 4) := by
    apply BitVec.eq_of_getLsbD_eq
    intro i hi
    simp only [formatRR, BitVec.getLsbD_extractLsb', BitVec.getLsbD_append]; simp [hi]
  simp [fieldY, h]

@[simp] theorem lowNibble_formatRR (fam : BitVec 4) (x y : Reg) (n : BitVec 4) :
    lowNibble (formatRR fam x y n) = n := by
  apply BitVec.eq_of_getLsbD_eq
  intro i hi
  simp only [lowNibble, formatRR, BitVec.getLsbD_extractLsb', BitVec.getLsbD_append]; simp [hi]

/-! ### Words rebuilt from their fields -/

/-- Format A holds every word of its family. -/
theorem formatA_fields (w : Word) : formatA (family w) (fieldNNN w) = w := by
  apply BitVec.eq_of_getLsbD_eq
  intro i hi
  simp only [formatA, family, fieldNNN, BitVec.getLsbD_append, BitVec.getLsbD_extractLsb']
  by_cases h : i < 12
  · simp [h]
  · have : 12 + (i - 12) = i := by omega
    simp [h, this]; omega

/-- Formats RI and R hold every word of their family. -/
theorem formatRI_fields (w : Word) : formatRI (family w) (fieldX w) (fieldNN w) = w := by
  apply BitVec.eq_of_getLsbD_eq
  intro i hi
  simp only [formatRI, family, fieldX, fieldNN, BitVec.getLsbD_append, BitVec.getLsbD_extractLsb', BitVec.ofFin_toFin]
  by_cases h : i < 8
  · simp [h]
  · by_cases h' : i - 8 < 4
    · have : 8 + (i - 8) = i := by omega
      simp [h, h', this]
    · have : 12 + (i - 8 - 4) = i := by omega
      simp [h, h', this]; omega

/-- Formats RR and RRN hold every word of their family. -/
theorem formatRR_fields (w : Word) : formatRR (family w) (fieldX w) (fieldY w) (lowNibble w) = w := by
  apply BitVec.eq_of_getLsbD_eq
  intro i hi
  simp only [formatRR, family, fieldX, fieldY, lowNibble, BitVec.getLsbD_append, BitVec.getLsbD_extractLsb',
    BitVec.ofFin_toFin]
  by_cases h : i < 4
  · simp [h]
  · by_cases h' : i - 4 < 4
    · have : 4 + (i - 4) = i := by omega
      simp [h, h', this]
    · by_cases h'' : i - 4 - 4 < 4
      · have : 8 + (i - 4 - 4) = i := by omega
        simp [h, h', h'', this]
      · have : 12 + (i - 4 - 4 - 4) = i := by omega
        simp [h, h', h'', this]; omega

/-- A family that is none of 0x0 to 0xE is 0xF. -/
theorem family_last (f : BitVec 4) (h : ∀ n, n < 15 → f ≠ BitVec.ofNat 4 n) : f = 0xF#4 := by
  have hf := f.isLt
  by_contra hne
  have hn : f.toNat ≠ 15 := fun e => hne (BitVec.eq_of_toNat_eq e)
  exact h f.toNat (by omega) (by simp)

/-! ### Bytes (20_memory.md R63) -/

/-- A word's value from its two bytes: big-endian. -/
theorem toNat_wordOfBytes (hi lo : Byte) : (wordOfBytes hi lo).toNat = hi.toNat * 256 + lo.toNat := by
  have := lo.isLt
  simp only [wordOfBytes, BitVec.toNat_append, Nat.shiftLeft_eq]
  rw [Nat.mul_comm, ← Nat.two_pow_add_eq_or_of_lt this]

/-- The two bytes of a word make the word again. -/
@[simp] theorem wordOfBytes_bytes (w : Word) : wordOfBytes (w.extractLsb' 8 8) (w.extractLsb' 0 8) = w := by
  apply BitVec.eq_of_getLsbD_eq
  intro i hi
  simp only [wordOfBytes, BitVec.getLsbD_append, BitVec.getLsbD_extractLsb']
  by_cases h : i < 8
  · simp [h]
  · have : 8 + (i - 8) = i := by omega
    simp [h, this]; omega

/-- The decoder, given the bytes of a word in memory order, reads the word. -/
theorem decodeTableWord_eq (w : Nat) (h : w < 65536) : decodeTableWord 16 w = decode (BitVec.ofNat 16 w) := by
  have hw : w % 2 ^ 16 = w := Nat.mod_eq_of_lt h
  simp only [decodeTableWord, hw, bytesOfWord, decodeBytes, wordOfBytes_bytes]
  cases decode (BitVec.ofNat 16 w) <;> rfl

end Sys2Proof
end

