-- ==== Sys2Proof/Laws/Memory.lean ====
section
/-! SUPPORT. Memory: reads after writes, and the canonical form, which every memory operation keeps. -/

namespace Sys2Proof.Machine

/-- An unlisted address reads as its reset byte. -/
@[simp] theorem Memory.read_nil (a : Nat) : Memory.read [] a = Config.resetByte a := rfl

/-- Reading past a head cell. -/
theorem Memory.read_cons (b : Nat) (w : Byte) (m : Memory) (a : Nat) :
    Memory.read ((b, w) :: m) a = if b = a then w else Memory.read m a := rfl

/-- Below the lower bound of a canonical list nothing is listed. -/
theorem Memory.read_below (m : Memory) : ∀ lo a, Memory.wfFrom lo m = true → a < lo → m.read a = Config.resetByte a := by
  induction m with
  | nil => intros; rfl
  | cons c m ih =>
    obtain ⟨b, w⟩ := c
    intro lo a h ha
    simp only [Memory.wfFrom, Bool.and_eq_true, decide_eq_true_eq] at h
    rw [Memory.read_cons, if_neg (by omega)]
    exact ih (b + 1) a h.2 (by omega)

/-- `consCell` above its tail reads as the cell it puts in front. -/
theorem read_consCell (m : Memory) (a c : Nat) (b : Byte) (h : Memory.wfFrom (a + 1) m = true) :
    Memory.read (consCell a b m) c = if a = c then b else m.read c := by
  unfold consCell
  split
  · next hb =>
    split
    · next hc => subst hc; rw [Memory.read_below m (a + 1) a h (by omega), hb]
    · rfl
  · rfl

/-- A weaker lower bound. -/
theorem Memory.wfFrom_mono (m : Memory) {lo lo' : Nat} (h : lo ≤ lo') (hm : Memory.wfFrom lo' m = true) :
    Memory.wfFrom lo m = true := by
  cases m with
  | nil => rfl
  | cons c m =>
    simp only [Memory.wfFrom, Bool.and_eq_true, decide_eq_true_eq] at hm ⊢
    exact ⟨⟨⟨by omega, hm.1.1.2⟩, hm.1.2⟩, hm.2⟩

/-- `consCell` keeps the canonical form. -/
theorem wfFrom_consCell (m : Memory) (lo a : Nat) (b : Byte) (hlo : lo ≤ a) (ha : a < Config.memSize)
    (h : Memory.wfFrom (a + 1) m = true) : Memory.wfFrom lo (consCell a b m) = true := by
  unfold consCell
  split
  · exact Memory.wfFrom_mono m (by omega) h
  · next hb => simp [Memory.wfFrom, hlo, ha, hb, h]

/-- A write keeps the canonical form. -/
theorem Memory.wfFrom_write (m : Memory) (a : Nat) (b : Byte) (ha : a < Config.memSize) :
    ∀ lo, lo ≤ a → Memory.wfFrom lo m = true → Memory.wfFrom lo (m.write a b) = true := by
  induction m with
  | nil => intro lo hlo _; exact wfFrom_consCell [] lo a b hlo ha rfl
  | cons c m ih =>
    obtain ⟨k, w⟩ := c
    intro lo hlo h
    have h' := h
    simp only [Memory.wfFrom, Bool.and_eq_true, decide_eq_true_eq] at h
    unfold Memory.write
    split
    · next hk =>
      have := ih (k + 1) (by omega) h.2
      simp [Memory.wfFrom, h.1.1.1, h.1.1.2, h.1.2, this]
    · split
      · next hk => subst hk; exact wfFrom_consCell m lo k b hlo ha h.2
      · next hne hk =>
        refine wfFrom_consCell _ lo a b hlo ha ?_
        simp only [Memory.wfFrom, Bool.and_eq_true, decide_eq_true_eq]
        exact ⟨⟨⟨by omega, h.1.1.2⟩, h.1.2⟩, h.2⟩

/-- A write below 4096 keeps memory canonical. -/
theorem Memory.wf_write (m : Memory) (a : Nat) (b : Byte) (ha : a < Config.memSize) (h : m.wf = true) :
    (m.write a b).wf = true :=
  Memory.wfFrom_write m a b ha 0 (Nat.zero_le _) h

/-- Read after write, on a canonical list. -/
theorem Memory.read_write_from (m : Memory) (a c : Nat) (b : Byte) :
    ∀ lo, Memory.wfFrom lo m = true → (m.write a b).read c = if a = c then b else m.read c := by
  induction m with
  | nil => intro lo _; exact read_consCell [] a c b rfl
  | cons p m ih =>
    obtain ⟨k, w⟩ := p
    intro lo h
    have h' := h
    simp only [Memory.wfFrom, Bool.and_eq_true, decide_eq_true_eq] at h
    unfold Memory.write
    split
    · next hk =>
      rw [Memory.read_cons, Memory.read_cons, ih (k + 1) h.2]
      by_cases h1 : k = c
      · rw [if_pos h1, if_pos h1, if_neg (by omega)]
      · rw [if_neg h1, if_neg h1]
    · split
      · next hk =>
        subst hk
        rw [read_consCell m k c b h.2, Memory.read_cons]
        split <;> rfl
      · next hne hk =>
        refine read_consCell _ a c b ?_
        simp only [Memory.wfFrom, Bool.and_eq_true, decide_eq_true_eq]
        exact ⟨⟨⟨by omega, h.1.1.2⟩, h.1.2⟩, h.2⟩

/-- Read after write: the byte written at its address, every other byte as before. -/
theorem Memory.read_write (m : Memory) (a c : Nat) (b : Byte) (h : m.wf = true) :
    (m.write a b).read c = if a = c then b else m.read c :=
  Memory.read_write_from m a c b 0 h

/-- Consecutive writes below 4096 keep memory canonical. -/
theorem Memory.wf_writeList (bs : List Byte) : ∀ (m : Memory) (a : Nat), a + bs.length ≤ Config.memSize →
    m.wf = true → (m.writeList a bs).wf = true := by
  induction bs with
  | nil => intro m a _ h; exact h
  | cons b bs ih =>
    intro m a hl h
    simp only [List.length_cons] at hl
    exact ih _ _ (by omega) (m.wf_write a b (by omega) h)

/-- Reading after consecutive writes: byte `c - a` of the list inside the block, as before outside it. -/
theorem Memory.read_writeList (bs : List Byte) : ∀ (m : Memory) (a c : Nat), a + bs.length ≤ Config.memSize →
    m.wf = true → (m.writeList a bs).read c =
      if h : a ≤ c ∧ c < a + bs.length then bs[c - a]'(by omega) else m.read c := by
  induction bs with
  | nil => intro m a c _ _; simp [Memory.writeList]
  | cons b bs ih =>
    intro m a c hl h
    simp only [List.length_cons] at hl
    unfold Memory.writeList
    rw [ih _ _ _ (by omega) (m.wf_write a b (by omega) h), Memory.read_write m a c b h]
    by_cases h1 : a = c
    · subst h1
      rw [dif_neg (by omega), if_pos rfl, dif_pos (by simp)]
      simp
    · by_cases h2 : a + 1 ≤ c ∧ c < a + 1 + bs.length
      · rw [dif_pos h2, dif_pos (by simp only [List.length_cons]; omega)]
        have : c - a = (c - (a + 1)) + 1 := by omega
        simp only [this, List.getElem_cons_succ]
      · rw [dif_neg h2, if_neg h1, dif_neg (by simp only [List.length_cons]; omega)]

/-- How many bytes `readList` reads. -/
@[simp] theorem Memory.length_readList (m : Memory) (a n : Nat) : (m.readList a n).length = n := by
  simp [Memory.readList]

/-- The bytes `readList` reads. -/
@[simp] theorem Memory.getElem_readList (m : Memory) (a n k : Nat) (h : k < (m.readList a n).length) :
    (m.readList a n)[k] = m.read (a + k) := by
  simp [Memory.readList]

/-- The registers after loading a list of bytes from register `k` up (R186). -/
theorem getElem_loadFrom (bs : List Byte) : ∀ (v : Vector Byte 16) (k q : Nat) (hq : q < 16),
    (loadFrom v k bs)[q] = if h : k ≤ q ∧ q < k + bs.length then bs[q - k]'(by omega) else v[q] := by
  induction bs with
  | nil => intro v k q hq; simp [loadFrom]
  | cons b bs ih =>
    intro v k q hq
    unfold loadFrom
    rw [ih _ _ q hq]
    by_cases h1 : k = q
    · subst h1
      rw [dif_neg (by omega), dif_pos (by simp)]
      simp
    · by_cases h2 : k + 1 ≤ q ∧ q < k + 1 + bs.length
      · rw [dif_pos h2, dif_pos (by simp only [List.length_cons]; omega)]
        have : q - k = (q - (k + 1)) + 1 := by omega
        simp only [this, List.getElem_cons_succ]
      · rw [dif_neg h2, dif_neg (by simp only [List.length_cons]; omega)]
        simp [h1]

/-- The stored register block, byte by byte (R185). -/
theorem getElem_regBlock (s : State) (x : Reg) (k : Nat) (h : k < (regBlock s x).length) :
    (regBlock s x)[k] = s.v[k]'(by simp [regBlock] at h; omega) := by
  simp [regBlock]

/-- How many bytes FX55 stores (R185). -/
@[simp] theorem length_regBlock (s : State) (x : Reg) : (regBlock s x).length = x.val + 1 := by
  simp [regBlock]

/-- The empty memory is canonical. -/
@[simp] theorem Memory.wf_nil : Memory.wf [] = true := rfl

end Sys2Proof.Machine
end

