-- ==== Sys2Proof/Laws/Operands.lean ====
section
/-! SUPPORT. The checks and operand forms on values, so that no later proof unfolds them. -/

namespace Sys2Proof.Machine

/-- The data range check holds exactly when the last byte exists (20_memory.md R70). -/
theorem rangeOk_iff (s : State) (n : Nat) : rangeOk s n = true ↔ s.i.toNat + n ≤ 4095 := by
  unfold rangeOk
  rw [decide_eq_true_iff]
  exact Nat.lt_succ_iff

/-- The data range check fails exactly when the last byte lies above 4095. -/
theorem rangeOk_false_iff (s : State) (n : Nat) : rangeOk s n = false ↔ 4095 < s.i.toNat + n := by
  rw [← Bool.not_eq_true, rangeOk_iff]
  exact Nat.not_le

/-- The sprite check (45_display.md R221): no row, or the last row's byte exists. -/
theorem spriteOk_iff (s : State) (n : Nat) : spriteOk s n = true ↔ n = 0 ∨ s.i.toNat + n - 1 ≤ 4095 := by
  unfold spriteOk
  rw [Bool.or_eq_true, rangeOk_iff, beq_iff_eq]
  omega

/-- The sprite check fails exactly when there is a row and the last one lies above 4095. -/
theorem spriteOk_false_iff (s : State) (n : Nat) : spriteOk s n = false ↔ 1 ≤ n ∧ 4095 < s.i.toNat + n - 1 := by
  rw [← Bool.not_eq_true, spriteOk_iff]
  omega

/-- The key code check (44_random_keys_timers.md R201). -/
theorem keyCodeOk_iff (b : Byte) : keyCodeOk b = true ↔ b.toNat ≤ 15 := by
  unfold keyCodeOk
  rw [decide_eq_true_iff]
  exact Nat.lt_succ_iff

/-- The key code check fails above 15. -/
theorem keyCodeOk_false_iff (b : Byte) : keyCodeOk b = false ↔ 15 < b.toNat := by
  rw [← Bool.not_eq_true, keyCodeOk_iff]
  exact Nat.not_le

/-- The extended address has the field's value (30_encoding.md R92). -/
theorem toNat_addrWord (nnn : Addr) : (addrWord nnn).toNat = nnn.toNat := by
  have := nnn.isLt
  simp only [addrWord, BitVec.toNat_setWidth]
  omega

/-- BNNN's target is the integer sum (41_control_flow.md R148). -/
theorem toNat_offsetTarget (nnn : Addr) (b : Byte) : (offsetTarget nnn b).toNat = nnn.toNat + b.toNat := by
  have := nnn.isLt
  have := b.isLt
  simp only [offsetTarget, BitVec.toNat_add, toNat_addrWord, BitVec.toNat_setWidth]
  omega

/-- Where FX55 and FX65 leave `I`, when the block exists (43_index_memory.md R185). -/
theorem toNat_indexPast (a : Word) (x : Reg) (h : a.toNat + x.val ≤ 4095) :
    (indexPast a x).toNat = a.toNat + x.val + 1 := by
  simp only [indexPast, BitVec.toNat_add, BitVec.toNat_ofNat]
  omega

/-- A BCD store has three bytes (43_index_memory.md R184). -/
@[simp] theorem length_bcdDigits (b : Byte) : (bcdDigits b).length = 3 := rfl

end Sys2Proof.Machine
end

