-- ==== Sys2Proof/Laws/PerInstr.lean ====
section
/-! SUPPORT. Per-instruction laws. `FixedDigits`: the word of an instruction shows the fixed digits of its row of the opcode map
(30_encoding.md R94, R96). -/

namespace Sys2Proof.Laws.FixedDigits

/-- Under the mask of its row, the word of `i` is the row's bits. -/
def Statement (i : Instr) : Prop := encode i &&& i.row.mask = i.row.bits

theorem nibble_and (a : BitVec 4) : a &&& 15#4 = a := BitVec.and_allOnes

theorem byte_and (a : Byte) : a &&& 255#8 = a := BitVec.and_allOnes

/-- Format A keeps its family under the mask 0xF000. -/
theorem formatA_mask (fam : BitVec 4) (nnn : Addr) : formatA fam nnn &&& 0xF000#16 = formatA fam 0 := by
  show _ &&& (0xF#4 ++ 0#12 : BitVec 16) = _
  unfold formatA
  erw [BitVec.and_append]
  simp [nibble_and]

/-- Format RI keeps its family under the mask 0xF000. -/
theorem formatRI_mask (fam : BitVec 4) (x : Reg) (nn : Byte) : formatRI fam x nn &&& 0xF000#16 = formatRI fam 0 0 := by
  show _ &&& (0xF#4 ++ 0#4 ++ 0#8 : BitVec 16) = _
  unfold formatRI
  erw [BitVec.and_append, BitVec.and_append]
  simp [nibble_and]

/-- Format R keeps its family and low byte under the mask 0xF0FF. -/
theorem formatR_mask (fam : BitVec 4) (x : Reg) (nn : Byte) : formatRI fam x nn &&& 0xF0FF#16 = formatRI fam 0 nn := by
  show _ &&& (0xF#4 ++ 0#4 ++ BitVec.allOnes 8 : BitVec 16) = _
  unfold formatRI
  erw [BitVec.and_append, BitVec.and_append]
  simp [nibble_and, byte_and]

/-- Format RR keeps its family and low nibble under the mask 0xF00F. -/
theorem formatRR_mask (fam : BitVec 4) (x y : Reg) (n : BitVec 4) :
    formatRR fam x y n &&& 0xF00F#16 = formatRR fam 0 0 n := by
  show _ &&& (0xF#4 ++ 0#4 ++ 0#4 ++ 0xF#4 : BitVec 16) = _
  unfold formatRR
  erw [BitVec.and_append, BitVec.and_append, BitVec.and_append]
  simp [nibble_and]

/-- Format RRN keeps its family under the mask 0xF000. -/
theorem formatRRN_mask (fam : BitVec 4) (x y : Reg) (n : BitVec 4) :
    formatRR fam x y n &&& 0xF000#16 = formatRR fam 0 0 0 := by
  show _ &&& (0xF#4 ++ 0#4 ++ 0#4 ++ 0#4 : BitVec 16) = _
  unfold formatRR
  erw [BitVec.and_append, BitVec.and_append, BitVec.and_append]
  simp [nibble_and]

theorem op00E0 : Statement .op00E0 := rfl
theorem op00EE : Statement .op00EE := rfl
theorem op1NNN (nnn : Addr) : Statement (.op1NNN nnn) := (formatA_mask 0x1 nnn).trans rfl
theorem op2NNN (nnn : Addr) : Statement (.op2NNN nnn) := (formatA_mask 0x2 nnn).trans rfl
theorem op3XNN (x : Reg) (nn : Byte) : Statement (.op3XNN x nn) := (formatRI_mask 0x3 x nn).trans rfl
theorem op4XNN (x : Reg) (nn : Byte) : Statement (.op4XNN x nn) := (formatRI_mask 0x4 x nn).trans rfl
theorem op5XY0 (x : Reg) (y : Reg) : Statement (.op5XY0 x y) := (formatRR_mask 0x5 x y 0x0).trans rfl
theorem op6XNN (x : Reg) (nn : Byte) : Statement (.op6XNN x nn) := (formatRI_mask 0x6 x nn).trans rfl
theorem op7XNN (x : Reg) (nn : Byte) : Statement (.op7XNN x nn) := (formatRI_mask 0x7 x nn).trans rfl
theorem op8XY0 (x : Reg) (y : Reg) : Statement (.op8XY0 x y) := (formatRR_mask 0x8 x y 0x0).trans rfl
theorem op8XY1 (x : Reg) (y : Reg) : Statement (.op8XY1 x y) := (formatRR_mask 0x8 x y 0x1).trans rfl
theorem op8XY2 (x : Reg) (y : Reg) : Statement (.op8XY2 x y) := (formatRR_mask 0x8 x y 0x2).trans rfl
theorem op8XY3 (x : Reg) (y : Reg) : Statement (.op8XY3 x y) := (formatRR_mask 0x8 x y 0x3).trans rfl
theorem op8XY4 (x : Reg) (y : Reg) : Statement (.op8XY4 x y) := (formatRR_mask 0x8 x y 0x4).trans rfl
theorem op8XY5 (x : Reg) (y : Reg) : Statement (.op8XY5 x y) := (formatRR_mask 0x8 x y 0x5).trans rfl
theorem op8XY6 (x : Reg) (y : Reg) : Statement (.op8XY6 x y) := (formatRR_mask 0x8 x y 0x6).trans rfl
theorem op8XY7 (x : Reg) (y : Reg) : Statement (.op8XY7 x y) := (formatRR_mask 0x8 x y 0x7).trans rfl
theorem op8XYE (x : Reg) (y : Reg) : Statement (.op8XYE x y) := (formatRR_mask 0x8 x y 0xE).trans rfl
theorem op9XY0 (x : Reg) (y : Reg) : Statement (.op9XY0 x y) := (formatRR_mask 0x9 x y 0x0).trans rfl
theorem opANNN (nnn : Addr) : Statement (.opANNN nnn) := (formatA_mask 0xA nnn).trans rfl
theorem opBNNN (nnn : Addr) : Statement (.opBNNN nnn) := (formatA_mask 0xB nnn).trans rfl
theorem opCXNN (x : Reg) (nn : Byte) : Statement (.opCXNN x nn) := (formatRI_mask 0xC x nn).trans rfl
theorem opDXYN (x : Reg) (y : Reg) (n : Fin 16) : Statement (.opDXYN x y n) := (formatRRN_mask 0xD x y (BitVec.ofFin n)).trans rfl
theorem opEX9E (x : Reg) : Statement (.opEX9E x) := (formatR_mask 0xE x 0x9E).trans rfl
theorem opEXA1 (x : Reg) : Statement (.opEXA1 x) := (formatR_mask 0xE x 0xA1).trans rfl
theorem opFX07 (x : Reg) : Statement (.opFX07 x) := (formatR_mask 0xF x 0x07).trans rfl
theorem opFX0A (x : Reg) : Statement (.opFX0A x) := (formatR_mask 0xF x 0x0A).trans rfl
theorem opFX15 (x : Reg) : Statement (.opFX15 x) := (formatR_mask 0xF x 0x15).trans rfl
theorem opFX18 (x : Reg) : Statement (.opFX18 x) := (formatR_mask 0xF x 0x18).trans rfl
theorem opFX1E (x : Reg) : Statement (.opFX1E x) := (formatR_mask 0xF x 0x1E).trans rfl
theorem opFX29 (x : Reg) : Statement (.opFX29 x) := (formatR_mask 0xF x 0x29).trans rfl
theorem opFX33 (x : Reg) : Statement (.opFX33 x) := (formatR_mask 0xF x 0x33).trans rfl
theorem opFX55 (x : Reg) : Statement (.opFX55 x) := (formatR_mask 0xF x 0x55).trans rfl
theorem opFX65 (x : Reg) : Statement (.opFX65 x) := (formatR_mask 0xF x 0x65).trans rfl

end Sys2Proof.Laws.FixedDigits
end

