-- ==== Sys2Proof/Laws/State.lean ====
section
/-! SUPPORT. One lemma per field per state update, each true by rfl, and the register accessors over the updates, so that no
later proof unfolds a record update. -/

namespace Sys2Proof.Machine

variable (s : State)

/-! ### `setReg` -/

@[simp] theorem State.setReg_mem (r : Reg) (b : Byte) : (s.setReg r b).mem = s.mem := rfl
@[simp] theorem State.setReg_v (r : Reg) (b : Byte) : (s.setReg r b).v = s.v.set r.val b := rfl
@[simp] theorem State.setReg_i (r : Reg) (b : Byte) : (s.setReg r b).i = s.i := rfl
@[simp] theorem State.setReg_pc (r : Reg) (b : Byte) : (s.setReg r b).pc = s.pc := rfl
@[simp] theorem State.setReg_stack (r : Reg) (b : Byte) : (s.setReg r b).stack = s.stack := rfl
@[simp] theorem State.setReg_sp (r : Reg) (b : Byte) : (s.setReg r b).sp = s.sp := rfl
@[simp] theorem State.setReg_dt (r : Reg) (b : Byte) : (s.setReg r b).dt = s.dt := rfl
@[simp] theorem State.setReg_st (r : Reg) (b : Byte) : (s.setReg r b).st = s.st := rfl
@[simp] theorem State.setReg_disp (r : Reg) (b : Byte) : (s.setReg r b).disp = s.disp := rfl
@[simp] theorem State.setReg_key (r : Reg) (b : Byte) : (s.setReg r b).key = s.key := rfl
@[simp] theorem State.setReg_redraw (r : Reg) (b : Byte) : (s.setReg r b).redraw = s.redraw := rfl
@[simp] theorem State.setReg_run (r : Reg) (b : Byte) : (s.setReg r b).run = s.run := rfl
@[simp] theorem State.setReg_err (r : Reg) (b : Byte) : (s.setReg r b).err = s.err := rfl
@[simp] theorem State.setReg_draws (r : Reg) (b : Byte) : (s.setReg r b).draws = s.draws := rfl

/-! ### `setIndex` -/

@[simp] theorem State.setIndex_mem (a : Word) : (s.setIndex a).mem = s.mem := rfl
@[simp] theorem State.setIndex_v (a : Word) : (s.setIndex a).v = s.v := rfl
@[simp] theorem State.setIndex_i (a : Word) : (s.setIndex a).i = a := rfl
@[simp] theorem State.setIndex_pc (a : Word) : (s.setIndex a).pc = s.pc := rfl
@[simp] theorem State.setIndex_stack (a : Word) : (s.setIndex a).stack = s.stack := rfl
@[simp] theorem State.setIndex_sp (a : Word) : (s.setIndex a).sp = s.sp := rfl
@[simp] theorem State.setIndex_dt (a : Word) : (s.setIndex a).dt = s.dt := rfl
@[simp] theorem State.setIndex_st (a : Word) : (s.setIndex a).st = s.st := rfl
@[simp] theorem State.setIndex_disp (a : Word) : (s.setIndex a).disp = s.disp := rfl
@[simp] theorem State.setIndex_key (a : Word) : (s.setIndex a).key = s.key := rfl
@[simp] theorem State.setIndex_redraw (a : Word) : (s.setIndex a).redraw = s.redraw := rfl
@[simp] theorem State.setIndex_run (a : Word) : (s.setIndex a).run = s.run := rfl
@[simp] theorem State.setIndex_err (a : Word) : (s.setIndex a).err = s.err := rfl
@[simp] theorem State.setIndex_draws (a : Word) : (s.setIndex a).draws = s.draws := rfl
@[simp] theorem State.setIndex_reg (a : Word) (q : Reg) : (s.setIndex a).reg q = s.reg q := rfl

/-! ### `jump` -/

@[simp] theorem State.jump_mem (a : Word) : (s.jump a).mem = s.mem := rfl
@[simp] theorem State.jump_v (a : Word) : (s.jump a).v = s.v := rfl
@[simp] theorem State.jump_i (a : Word) : (s.jump a).i = s.i := rfl
@[simp] theorem State.jump_pc (a : Word) : (s.jump a).pc = a := rfl
@[simp] theorem State.jump_stack (a : Word) : (s.jump a).stack = s.stack := rfl
@[simp] theorem State.jump_sp (a : Word) : (s.jump a).sp = s.sp := rfl
@[simp] theorem State.jump_dt (a : Word) : (s.jump a).dt = s.dt := rfl
@[simp] theorem State.jump_st (a : Word) : (s.jump a).st = s.st := rfl
@[simp] theorem State.jump_disp (a : Word) : (s.jump a).disp = s.disp := rfl
@[simp] theorem State.jump_key (a : Word) : (s.jump a).key = s.key := rfl
@[simp] theorem State.jump_redraw (a : Word) : (s.jump a).redraw = s.redraw := rfl
@[simp] theorem State.jump_run (a : Word) : (s.jump a).run = s.run := rfl
@[simp] theorem State.jump_err (a : Word) : (s.jump a).err = s.err := rfl
@[simp] theorem State.jump_draws (a : Word) : (s.jump a).draws = s.draws := rfl
@[simp] theorem State.jump_reg (a : Word) (q : Reg) : (s.jump a).reg q = s.reg q := rfl

/-! ### `advance` -/

@[simp] theorem State.advance_mem : (s.advance).mem = s.mem := rfl
@[simp] theorem State.advance_v : (s.advance).v = s.v := rfl
@[simp] theorem State.advance_i : (s.advance).i = s.i := rfl
@[simp] theorem State.advance_pc : (s.advance).pc = s.pc + 2 := rfl
@[simp] theorem State.advance_stack : (s.advance).stack = s.stack := rfl
@[simp] theorem State.advance_sp : (s.advance).sp = s.sp := rfl
@[simp] theorem State.advance_dt : (s.advance).dt = s.dt := rfl
@[simp] theorem State.advance_st : (s.advance).st = s.st := rfl
@[simp] theorem State.advance_disp : (s.advance).disp = s.disp := rfl
@[simp] theorem State.advance_key : (s.advance).key = s.key := rfl
@[simp] theorem State.advance_redraw : (s.advance).redraw = s.redraw := rfl
@[simp] theorem State.advance_run : (s.advance).run = s.run := rfl
@[simp] theorem State.advance_err : (s.advance).err = s.err := rfl
@[simp] theorem State.advance_draws : (s.advance).draws = s.draws := rfl
@[simp] theorem State.advance_reg (q : Reg) : (s.advance).reg q = s.reg q := rfl

/-! ### `skipIf` -/

@[simp] theorem State.skipIf_mem (c : Bool) : (s.skipIf c).mem = s.mem := rfl
@[simp] theorem State.skipIf_v (c : Bool) : (s.skipIf c).v = s.v := rfl
@[simp] theorem State.skipIf_i (c : Bool) : (s.skipIf c).i = s.i := rfl
@[simp] theorem State.skipIf_pc (c : Bool) : (s.skipIf c).pc = if c then s.pc + 4 else s.pc + 2 := rfl
@[simp] theorem State.skipIf_stack (c : Bool) : (s.skipIf c).stack = s.stack := rfl
@[simp] theorem State.skipIf_sp (c : Bool) : (s.skipIf c).sp = s.sp := rfl
@[simp] theorem State.skipIf_dt (c : Bool) : (s.skipIf c).dt = s.dt := rfl
@[simp] theorem State.skipIf_st (c : Bool) : (s.skipIf c).st = s.st := rfl
@[simp] theorem State.skipIf_disp (c : Bool) : (s.skipIf c).disp = s.disp := rfl
@[simp] theorem State.skipIf_key (c : Bool) : (s.skipIf c).key = s.key := rfl
@[simp] theorem State.skipIf_redraw (c : Bool) : (s.skipIf c).redraw = s.redraw := rfl
@[simp] theorem State.skipIf_run (c : Bool) : (s.skipIf c).run = s.run := rfl
@[simp] theorem State.skipIf_err (c : Bool) : (s.skipIf c).err = s.err := rfl
@[simp] theorem State.skipIf_draws (c : Bool) : (s.skipIf c).draws = s.draws := rfl
@[simp] theorem State.skipIf_reg (c : Bool) (q : Reg) : (s.skipIf c).reg q = s.reg q := rfl

/-! ### `storeBytes` -/

@[simp] theorem State.storeBytes_mem (a : Nat) (bs : List Byte) : (s.storeBytes a bs).mem = s.mem.writeList a bs := rfl
@[simp] theorem State.storeBytes_v (a : Nat) (bs : List Byte) : (s.storeBytes a bs).v = s.v := rfl
@[simp] theorem State.storeBytes_i (a : Nat) (bs : List Byte) : (s.storeBytes a bs).i = s.i := rfl
@[simp] theorem State.storeBytes_pc (a : Nat) (bs : List Byte) : (s.storeBytes a bs).pc = s.pc := rfl
@[simp] theorem State.storeBytes_stack (a : Nat) (bs : List Byte) : (s.storeBytes a bs).stack = s.stack := rfl
@[simp] theorem State.storeBytes_sp (a : Nat) (bs : List Byte) : (s.storeBytes a bs).sp = s.sp := rfl
@[simp] theorem State.storeBytes_dt (a : Nat) (bs : List Byte) : (s.storeBytes a bs).dt = s.dt := rfl
@[simp] theorem State.storeBytes_st (a : Nat) (bs : List Byte) : (s.storeBytes a bs).st = s.st := rfl
@[simp] theorem State.storeBytes_disp (a : Nat) (bs : List Byte) : (s.storeBytes a bs).disp = s.disp := rfl
@[simp] theorem State.storeBytes_key (a : Nat) (bs : List Byte) : (s.storeBytes a bs).key = s.key := rfl
@[simp] theorem State.storeBytes_redraw (a : Nat) (bs : List Byte) : (s.storeBytes a bs).redraw = s.redraw := rfl
@[simp] theorem State.storeBytes_run (a : Nat) (bs : List Byte) : (s.storeBytes a bs).run = s.run := rfl
@[simp] theorem State.storeBytes_err (a : Nat) (bs : List Byte) : (s.storeBytes a bs).err = s.err := rfl
@[simp] theorem State.storeBytes_draws (a : Nat) (bs : List Byte) : (s.storeBytes a bs).draws = s.draws := rfl
@[simp] theorem State.storeBytes_reg (a : Nat) (bs : List Byte) (q : Reg) : (s.storeBytes a bs).reg q = s.reg q := rfl

/-! ### `showDisplay` -/

@[simp] theorem State.showDisplay_mem (d : Display) : (s.showDisplay d).mem = s.mem := rfl
@[simp] theorem State.showDisplay_v (d : Display) : (s.showDisplay d).v = s.v := rfl
@[simp] theorem State.showDisplay_i (d : Display) : (s.showDisplay d).i = s.i := rfl
@[simp] theorem State.showDisplay_pc (d : Display) : (s.showDisplay d).pc = s.pc := rfl
@[simp] theorem State.showDisplay_stack (d : Display) : (s.showDisplay d).stack = s.stack := rfl
@[simp] theorem State.showDisplay_sp (d : Display) : (s.showDisplay d).sp = s.sp := rfl
@[simp] theorem State.showDisplay_dt (d : Display) : (s.showDisplay d).dt = s.dt := rfl
@[simp] theorem State.showDisplay_st (d : Display) : (s.showDisplay d).st = s.st := rfl
@[simp] theorem State.showDisplay_disp (d : Display) : (s.showDisplay d).disp = d := rfl
@[simp] theorem State.showDisplay_key (d : Display) : (s.showDisplay d).key = s.key := rfl
@[simp] theorem State.showDisplay_redraw (d : Display) : (s.showDisplay d).redraw = true := rfl
@[simp] theorem State.showDisplay_run (d : Display) : (s.showDisplay d).run = s.run := rfl
@[simp] theorem State.showDisplay_err (d : Display) : (s.showDisplay d).err = s.err := rfl
@[simp] theorem State.showDisplay_draws (d : Display) : (s.showDisplay d).draws = s.draws := rfl
@[simp] theorem State.showDisplay_reg (d : Display) (q : Reg) : (s.showDisplay d).reg q = s.reg q := rfl

/-! ### `setDelay` -/

@[simp] theorem State.setDelay_mem (b : Byte) : (s.setDelay b).mem = s.mem := rfl
@[simp] theorem State.setDelay_v (b : Byte) : (s.setDelay b).v = s.v := rfl
@[simp] theorem State.setDelay_i (b : Byte) : (s.setDelay b).i = s.i := rfl
@[simp] theorem State.setDelay_pc (b : Byte) : (s.setDelay b).pc = s.pc := rfl
@[simp] theorem State.setDelay_stack (b : Byte) : (s.setDelay b).stack = s.stack := rfl
@[simp] theorem State.setDelay_sp (b : Byte) : (s.setDelay b).sp = s.sp := rfl
@[simp] theorem State.setDelay_dt (b : Byte) : (s.setDelay b).dt = b := rfl
@[simp] theorem State.setDelay_st (b : Byte) : (s.setDelay b).st = s.st := rfl
@[simp] theorem State.setDelay_disp (b : Byte) : (s.setDelay b).disp = s.disp := rfl
@[simp] theorem State.setDelay_key (b : Byte) : (s.setDelay b).key = s.key := rfl
@[simp] theorem State.setDelay_redraw (b : Byte) : (s.setDelay b).redraw = s.redraw := rfl
@[simp] theorem State.setDelay_run (b : Byte) : (s.setDelay b).run = s.run := rfl
@[simp] theorem State.setDelay_err (b : Byte) : (s.setDelay b).err = s.err := rfl
@[simp] theorem State.setDelay_draws (b : Byte) : (s.setDelay b).draws = s.draws := rfl
@[simp] theorem State.setDelay_reg (b : Byte) (q : Reg) : (s.setDelay b).reg q = s.reg q := rfl

/-! ### `setSound` -/

@[simp] theorem State.setSound_mem (b : Byte) : (s.setSound b).mem = s.mem := rfl
@[simp] theorem State.setSound_v (b : Byte) : (s.setSound b).v = s.v := rfl
@[simp] theorem State.setSound_i (b : Byte) : (s.setSound b).i = s.i := rfl
@[simp] theorem State.setSound_pc (b : Byte) : (s.setSound b).pc = s.pc := rfl
@[simp] theorem State.setSound_stack (b : Byte) : (s.setSound b).stack = s.stack := rfl
@[simp] theorem State.setSound_sp (b : Byte) : (s.setSound b).sp = s.sp := rfl
@[simp] theorem State.setSound_dt (b : Byte) : (s.setSound b).dt = s.dt := rfl
@[simp] theorem State.setSound_st (b : Byte) : (s.setSound b).st = b := rfl
@[simp] theorem State.setSound_disp (b : Byte) : (s.setSound b).disp = s.disp := rfl
@[simp] theorem State.setSound_key (b : Byte) : (s.setSound b).key = s.key := rfl
@[simp] theorem State.setSound_redraw (b : Byte) : (s.setSound b).redraw = s.redraw := rfl
@[simp] theorem State.setSound_run (b : Byte) : (s.setSound b).run = s.run := rfl
@[simp] theorem State.setSound_err (b : Byte) : (s.setSound b).err = s.err := rfl
@[simp] theorem State.setSound_draws (b : Byte) : (s.setSound b).draws = s.draws := rfl
@[simp] theorem State.setSound_reg (b : Byte) (q : Reg) : (s.setSound b).reg q = s.reg q := rfl

/-! ### `postStep` -/

@[simp] theorem State.postStep_mem : (s.postStep).mem = s.mem := rfl
@[simp] theorem State.postStep_v : (s.postStep).v = s.v := rfl
@[simp] theorem State.postStep_i : (s.postStep).i = s.i := rfl
@[simp] theorem State.postStep_pc : (s.postStep).pc = s.pc := rfl
@[simp] theorem State.postStep_stack : (s.postStep).stack = s.stack := rfl
@[simp] theorem State.postStep_sp : (s.postStep).sp = s.sp := rfl
@[simp] theorem State.postStep_dt : (s.postStep).dt = tick s.dt := rfl
@[simp] theorem State.postStep_st : (s.postStep).st = tick s.st := rfl
@[simp] theorem State.postStep_disp : (s.postStep).disp = s.disp := rfl
@[simp] theorem State.postStep_key : (s.postStep).key = s.key := rfl
@[simp] theorem State.postStep_redraw : (s.postStep).redraw = s.redraw := rfl
@[simp] theorem State.postStep_run : (s.postStep).run = s.run := rfl
@[simp] theorem State.postStep_err : (s.postStep).err = s.err := rfl
@[simp] theorem State.postStep_draws : (s.postStep).draws = s.draws := rfl
@[simp] theorem State.postStep_reg (q : Reg) : (s.postStep).reg q = s.reg q := rfl

/-! ### `resume` -/

@[simp] theorem State.resume_mem : (s.resume).mem = s.mem := rfl
@[simp] theorem State.resume_v : (s.resume).v = s.v := rfl
@[simp] theorem State.resume_i : (s.resume).i = s.i := rfl
@[simp] theorem State.resume_pc : (s.resume).pc = s.pc := rfl
@[simp] theorem State.resume_stack : (s.resume).stack = s.stack := rfl
@[simp] theorem State.resume_sp : (s.resume).sp = s.sp := rfl
@[simp] theorem State.resume_dt : (s.resume).dt = s.dt := rfl
@[simp] theorem State.resume_st : (s.resume).st = s.st := rfl
@[simp] theorem State.resume_disp : (s.resume).disp = s.disp := rfl
@[simp] theorem State.resume_key : (s.resume).key = s.key := rfl
@[simp] theorem State.resume_redraw : (s.resume).redraw = s.redraw := rfl
@[simp] theorem State.resume_run : (s.resume).run = .running := rfl
@[simp] theorem State.resume_err : (s.resume).err = s.err := rfl
@[simp] theorem State.resume_draws : (s.resume).draws = s.draws := rfl
@[simp] theorem State.resume_reg (q : Reg) : (s.resume).reg q = s.reg q := rfl

/-! ### `await` -/

@[simp] theorem State.await_mem : (s.await).mem = s.mem := rfl
@[simp] theorem State.await_v : (s.await).v = s.v := rfl
@[simp] theorem State.await_i : (s.await).i = s.i := rfl
@[simp] theorem State.await_pc : (s.await).pc = s.pc := rfl
@[simp] theorem State.await_stack : (s.await).stack = s.stack := rfl
@[simp] theorem State.await_sp : (s.await).sp = s.sp := rfl
@[simp] theorem State.await_dt : (s.await).dt = s.dt := rfl
@[simp] theorem State.await_st : (s.await).st = s.st := rfl
@[simp] theorem State.await_disp : (s.await).disp = s.disp := rfl
@[simp] theorem State.await_key : (s.await).key = s.key := rfl
@[simp] theorem State.await_redraw : (s.await).redraw = s.redraw := rfl
@[simp] theorem State.await_run : (s.await).run = .awaitingKey := rfl
@[simp] theorem State.await_err : (s.await).err = s.err := rfl
@[simp] theorem State.await_draws : (s.await).draws = s.draws := rfl
@[simp] theorem State.await_reg (q : Reg) : (s.await).reg q = s.reg q := rfl

/-! ### `raise` -/

@[simp] theorem State.raise_mem (k : ErrKind) (w : Word) : (s.raise k w).mem = s.mem := rfl
@[simp] theorem State.raise_v (k : ErrKind) (w : Word) : (s.raise k w).v = s.v := rfl
@[simp] theorem State.raise_i (k : ErrKind) (w : Word) : (s.raise k w).i = s.i := rfl
@[simp] theorem State.raise_pc (k : ErrKind) (w : Word) : (s.raise k w).pc = s.pc := rfl
@[simp] theorem State.raise_stack (k : ErrKind) (w : Word) : (s.raise k w).stack = s.stack := rfl
@[simp] theorem State.raise_sp (k : ErrKind) (w : Word) : (s.raise k w).sp = s.sp := rfl
@[simp] theorem State.raise_dt (k : ErrKind) (w : Word) : (s.raise k w).dt = s.dt := rfl
@[simp] theorem State.raise_st (k : ErrKind) (w : Word) : (s.raise k w).st = s.st := rfl
@[simp] theorem State.raise_disp (k : ErrKind) (w : Word) : (s.raise k w).disp = s.disp := rfl
@[simp] theorem State.raise_key (k : ErrKind) (w : Word) : (s.raise k w).key = s.key := rfl
@[simp] theorem State.raise_redraw (k : ErrKind) (w : Word) : (s.raise k w).redraw = s.redraw := rfl
@[simp] theorem State.raise_run (k : ErrKind) (w : Word) : (s.raise k w).run = .halted := rfl
@[simp] theorem State.raise_err (k : ErrKind) (w : Word) : (s.raise k w).err = ⟨k, s.pc, w⟩ := rfl
@[simp] theorem State.raise_draws (k : ErrKind) (w : Word) : (s.raise k w).draws = s.draws := rfl
@[simp] theorem State.raise_reg (k : ErrKind) (w : Word) (q : Reg) : (s.raise k w).reg q = s.reg q := rfl

/-! ### `drawInto` -/

@[simp] theorem State.drawInto_mem (q : Byte) (r : Reg) (nn : Byte) : (s.drawInto q r nn).mem = s.mem := rfl
@[simp] theorem State.drawInto_v (q : Byte) (r : Reg) (nn : Byte) : (s.drawInto q r nn).v = s.v.set r.val (q &&& nn) := rfl
@[simp] theorem State.drawInto_i (q : Byte) (r : Reg) (nn : Byte) : (s.drawInto q r nn).i = s.i := rfl
@[simp] theorem State.drawInto_pc (q : Byte) (r : Reg) (nn : Byte) : (s.drawInto q r nn).pc = s.pc := rfl
@[simp] theorem State.drawInto_stack (q : Byte) (r : Reg) (nn : Byte) : (s.drawInto q r nn).stack = s.stack := rfl
@[simp] theorem State.drawInto_sp (q : Byte) (r : Reg) (nn : Byte) : (s.drawInto q r nn).sp = s.sp := rfl
@[simp] theorem State.drawInto_dt (q : Byte) (r : Reg) (nn : Byte) : (s.drawInto q r nn).dt = s.dt := rfl
@[simp] theorem State.drawInto_st (q : Byte) (r : Reg) (nn : Byte) : (s.drawInto q r nn).st = s.st := rfl
@[simp] theorem State.drawInto_disp (q : Byte) (r : Reg) (nn : Byte) : (s.drawInto q r nn).disp = s.disp := rfl
@[simp] theorem State.drawInto_key (q : Byte) (r : Reg) (nn : Byte) : (s.drawInto q r nn).key = s.key := rfl
@[simp] theorem State.drawInto_redraw (q : Byte) (r : Reg) (nn : Byte) : (s.drawInto q r nn).redraw = s.redraw := rfl
@[simp] theorem State.drawInto_run (q : Byte) (r : Reg) (nn : Byte) : (s.drawInto q r nn).run = s.run := rfl
@[simp] theorem State.drawInto_err (q : Byte) (r : Reg) (nn : Byte) : (s.drawInto q r nn).err = s.err := rfl
@[simp] theorem State.drawInto_draws (q : Byte) (r : Reg) (nn : Byte) : (s.drawInto q r nn).draws = s.draws + 1 := rfl

/-! ### `loadBlock` -/

@[simp] theorem State.loadBlock_mem (r : Reg) : (s.loadBlock r).mem = s.mem := rfl
@[simp] theorem State.loadBlock_v (r : Reg) : (s.loadBlock r).v = loadFrom s.v 0 (s.mem.readList s.i.toNat (r.val + 1)) := rfl
@[simp] theorem State.loadBlock_i (r : Reg) : (s.loadBlock r).i = s.i := rfl
@[simp] theorem State.loadBlock_pc (r : Reg) : (s.loadBlock r).pc = s.pc := rfl
@[simp] theorem State.loadBlock_stack (r : Reg) : (s.loadBlock r).stack = s.stack := rfl
@[simp] theorem State.loadBlock_sp (r : Reg) : (s.loadBlock r).sp = s.sp := rfl
@[simp] theorem State.loadBlock_dt (r : Reg) : (s.loadBlock r).dt = s.dt := rfl
@[simp] theorem State.loadBlock_st (r : Reg) : (s.loadBlock r).st = s.st := rfl
@[simp] theorem State.loadBlock_disp (r : Reg) : (s.loadBlock r).disp = s.disp := rfl
@[simp] theorem State.loadBlock_key (r : Reg) : (s.loadBlock r).key = s.key := rfl
@[simp] theorem State.loadBlock_redraw (r : Reg) : (s.loadBlock r).redraw = s.redraw := rfl
@[simp] theorem State.loadBlock_run (r : Reg) : (s.loadBlock r).run = s.run := rfl
@[simp] theorem State.loadBlock_err (r : Reg) : (s.loadBlock r).err = s.err := rfl
@[simp] theorem State.loadBlock_draws (r : Reg) : (s.loadBlock r).draws = s.draws := rfl

/-! ### `setKeys` -/

@[simp] theorem State.setKeys_mem (k : BitVec 16) : (s.setKeys k).mem = s.mem := rfl
@[simp] theorem State.setKeys_v (k : BitVec 16) : (s.setKeys k).v = s.v := rfl
@[simp] theorem State.setKeys_i (k : BitVec 16) : (s.setKeys k).i = s.i := rfl
@[simp] theorem State.setKeys_pc (k : BitVec 16) : (s.setKeys k).pc = s.pc := rfl
@[simp] theorem State.setKeys_stack (k : BitVec 16) : (s.setKeys k).stack = s.stack := rfl
@[simp] theorem State.setKeys_sp (k : BitVec 16) : (s.setKeys k).sp = s.sp := rfl
@[simp] theorem State.setKeys_dt (k : BitVec 16) : (s.setKeys k).dt = s.dt := rfl
@[simp] theorem State.setKeys_st (k : BitVec 16) : (s.setKeys k).st = s.st := rfl
@[simp] theorem State.setKeys_disp (k : BitVec 16) : (s.setKeys k).disp = s.disp := rfl
@[simp] theorem State.setKeys_key (k : BitVec 16) : (s.setKeys k).key = k := rfl
@[simp] theorem State.setKeys_redraw (k : BitVec 16) : (s.setKeys k).redraw = s.redraw := rfl
@[simp] theorem State.setKeys_run (k : BitVec 16) : (s.setKeys k).run = s.run := rfl
@[simp] theorem State.setKeys_err (k : BitVec 16) : (s.setKeys k).err = s.err := rfl
@[simp] theorem State.setKeys_draws (k : BitVec 16) : (s.setKeys k).draws = s.draws := rfl
@[simp] theorem State.setKeys_reg (k : BitVec 16) (q : Reg) : (s.setKeys k).reg q = s.reg q := rfl

/-! ### `clearRedraw` -/

@[simp] theorem State.clearRedraw_mem : (s.clearRedraw).mem = s.mem := rfl
@[simp] theorem State.clearRedraw_v : (s.clearRedraw).v = s.v := rfl
@[simp] theorem State.clearRedraw_i : (s.clearRedraw).i = s.i := rfl
@[simp] theorem State.clearRedraw_pc : (s.clearRedraw).pc = s.pc := rfl
@[simp] theorem State.clearRedraw_stack : (s.clearRedraw).stack = s.stack := rfl
@[simp] theorem State.clearRedraw_sp : (s.clearRedraw).sp = s.sp := rfl
@[simp] theorem State.clearRedraw_dt : (s.clearRedraw).dt = s.dt := rfl
@[simp] theorem State.clearRedraw_st : (s.clearRedraw).st = s.st := rfl
@[simp] theorem State.clearRedraw_disp : (s.clearRedraw).disp = s.disp := rfl
@[simp] theorem State.clearRedraw_key : (s.clearRedraw).key = s.key := rfl
@[simp] theorem State.clearRedraw_redraw : (s.clearRedraw).redraw = false := rfl
@[simp] theorem State.clearRedraw_run : (s.clearRedraw).run = s.run := rfl
@[simp] theorem State.clearRedraw_err : (s.clearRedraw).err = s.err := rfl
@[simp] theorem State.clearRedraw_draws : (s.clearRedraw).draws = s.draws := rfl
@[simp] theorem State.clearRedraw_reg (q : Reg) : (s.clearRedraw).reg q = s.reg q := rfl

/-! ### Registers -/

/-- Reading the register just written. -/
@[simp] theorem State.reg_setReg_self (r : Reg) (b : Byte) : (s.setReg r b).reg r = b := by
  simp [State.reg]

/-- Writing one register leaves every other alone. -/
theorem State.reg_setReg_ne (r q : Reg) (b : Byte) (h : q ≠ r) : (s.setReg r b).reg q = s.reg q := by
  have : r.val ≠ q.val := fun e => h (Fin.ext e.symm)
  simp [State.reg, Vector.getElem_set_ne, this]

/-- The register file after a write, register by register. -/
theorem State.reg_setReg (r q : Reg) (b : Byte) : (s.setReg r b).reg q = if q = r then b else s.reg q := by
  split
  · next h => subst h; simp
  · next h => exact s.reg_setReg_ne r q b h

/-- A draw is a register write. -/
theorem State.reg_drawInto (rnd : Byte) (r : Reg) (nn : Byte) (q : Reg) :
    (s.drawInto rnd r nn).reg q = if q = r then rnd &&& nn else s.reg q :=
  s.reg_setReg r q (rnd &&& nn)

/-- Two states with the same register file read alike. -/
theorem State.reg_congr {s t : State} (h : s.v = t.v) (q : Reg) : s.reg q = t.reg q := by
  simp [State.reg, h]

/-- The flag and the result, register by register (R160). -/
theorem State.reg_flagThenReg (flag : Byte) (x : Reg) (f : State → Byte) (q : Reg) :
    (s.flagThenReg flag x f).reg q =
      if q = x then f (s.setReg vf flag) else if q = vf then flag else s.reg q := by
  simp only [State.flagThenReg, State.reg_setReg]

/-- `flagThenReg` touches the registers only. -/
theorem State.flagThenReg_eq (flag : Byte) (x : Reg) (f : State → Byte) :
    s.flagThenReg flag x f = { s with v := (s.flagThenReg flag x f).v } := rfl

/-! ### The call stack -/

/-- A push succeeds below sixteen entries. -/
theorem State.push?_of_lt (a : Word) (h : s.sp.val < 16) :
    s.push? a = some { s with stack := s.stack.set s.sp.val a, sp := ⟨s.sp.val + 1, by omega⟩ } := by
  simp [State.push?, h]

/-- A push fails on a full stack. -/
theorem State.push?_full (a : Word) (h : s.sp.val = 16) : s.push? a = none := by
  simp [State.push?, h]

/-- A pop succeeds above zero entries. -/
theorem State.pop?_of_pos (h : 0 < s.sp.val) :
    s.pop? = some (s.stack[s.sp.val - 1]'(by have := s.sp.isLt; omega),
      { s with sp := ⟨s.sp.val - 1, by have := s.sp.isLt; omega⟩ }) := by
  simp [State.pop?, h]

/-- A pop fails on an empty stack. -/
theorem State.pop?_empty (h : s.sp.val = 0) : s.pop? = none := by
  simp [State.pop?, h]

end Sys2Proof.Machine
end

