-- ==== Sys2Proof/Laws/Step.lean ====
section
/-! SUPPORT. What the shared operations around an instruction can do: a check, the post-step, the cycle. -/

namespace Sys2Proof.Machine

/-- What a check can answer (R123): the continuation, or the halt entry. -/
theorem checked_cases {ok : Bool} {k : ErrKind} {i : Instr} {s t u : State} (h : checked ok k i s t = .next u) :
    (ok = true ∧ u = t) ∨ (ok = false ∧ u = s.raise k (encode i)) := by
  cases ok
  · exact .inr ⟨rfl, by simpa [checked] using h.symm⟩
  · exact .inl ⟨rfl, by simpa [checked] using h.symm⟩

/-- A check that holds goes on. -/
@[simp] theorem checked_true (k : ErrKind) (i : Instr) (s t : State) : checked true k i s t = .next t := rfl

/-- A check that fails takes the error. -/
@[simp] theorem checked_false (k : ErrKind) (i : Instr) (s t : State) :
    checked false k i s t = .next (s.raise k (encode i)) := rfl

/-- After an error nothing more happens in a step. -/
theorem State.settle_halted {t : State} (h : t.run = .halted) : t.settle = t := if_pos h

/-- Without an error the post-step runs. -/
theorem State.settle_going {t : State} (h : t.run ≠ .halted) : t.settle = t.postStep := if_neg h

/-- `settle` changes the timers only. -/
theorem State.settle_eq (t : State) : t.settle = { t with dt := t.settle.dt, st := t.settle.st } := by
  unfold State.settle; split <;> rfl

/-- A settled answer that is a next state comes from a next state. -/
theorem settleAnswer_next {a : Answer} {t : State} (h : settleAnswer a = .next t) : ∃ u, a = .next u ∧ t = u.settle := by
  cases a with
  | next u => exact ⟨u, rfl, by simpa [settleAnswer] using h.symm⟩
  | fault r => exact nomatch r
  | refused r => simp [settleAnswer] at h

/-- Everything one step can do (R120): nothing while Halted; the two errors before execution; or an instruction, settled. -/
theorem cycle_cases {ex : Instr → State → Answer} {s t : State} (h : cycle ex s = .next t) :
    (s.run = .halted ∧ t = s) ∨
    (s.run ≠ .halted ∧ s.fetch = none ∧ t = s.raise .outOfBoundsFetch 0) ∨
    (∃ w, s.run ≠ .halted ∧ s.fetch = some w ∧ decode w = none ∧ t = s.raise .unsupportedOpcode w) ∨
    (∃ w i u, s.run ≠ .halted ∧ s.fetch = some w ∧ decode w = some i ∧ ex i s.resume = .next u ∧ t = u.settle) := by
  by_cases hr : s.run = .halted
  · exact .inl ⟨hr, by simpa [cycle, hr] using h.symm⟩
  have hc : cycle ex s = (match s.fetch with
      | none => .next (s.raise .outOfBoundsFetch 0)
      | some w => match decode w with
        | none => .next (s.raise .unsupportedOpcode w)
        | some i => settleAnswer (ex i s.resume)) := by
    unfold cycle
    cases hs : s.run with
    | halted => exact absurd hs hr
    | running => rfl
    | awaitingKey => rfl
  rw [hc] at h
  cases hf : s.fetch with
  | none => exact .inr (.inl ⟨hr, rfl, by simpa [hf] using h.symm⟩)
  | some w =>
    simp only [hf] at h
    cases hd : decode w with
    | none => exact .inr (.inr (.inl ⟨w, hr, rfl, hd, by simpa [hd] using h.symm⟩))
    | some i =>
      simp only [hd] at h
      obtain ⟨u, hu, ht⟩ := settleAnswer_next h
      exact .inr (.inr (.inr ⟨w, i, u, hr, rfl, hd, hu, ht⟩))

/-- A timer's decrement, on values (R125). -/
theorem toNat_tick (b : Byte) : (tick b).toNat = b.toNat - 1 := by
  unfold tick
  split
  · next h => simp [h]
  · next h =>
    have : b.toNat ≠ 0 := fun e => h (BitVec.eq_of_toNat_eq (by simpa using e))
    have := b.isLt
    simp only [BitVec.toNat_sub]
    simp
    omega

end Sys2Proof.Machine
end

