-- ==== Sys2Proof/Tests/Slice0.lean ====
section
/-! SUPPORT. The model's own tests: well-formedness smoke tests, decoding of words written out bit by bit from 30_encoding.md R91 and
R96, and one-step tests whose expected results are the vectors of 95_test_vectors.md. -/

namespace Sys2Proof.Tests

open Sys2Proof.Machine

/-! ### Well-formedness: what each check refuses -/

theorem test_wordLegal_family0 : wordLegal 0x0000 = false := by decide
theorem test_wordLegal_lowNibble : wordLegal 0x5231 = false := by decide
theorem test_wordLegal_lowByte : wordLegal 0xE09F = false := by decide
theorem test_wordLegal_accepts : wordLegal 0x10E0 = true := by decide
theorem test_imageFits_refuses : imageFits (List.replicate 3585 0) = false := by decide +kernel
theorem test_imageFits_accepts : imageFits (List.replicate 3584 0) = true := by decide +kernel
theorem test_memoryWf_unsorted : Memory.wf [(5, 1), (4, 1)] = false := by decide
theorem test_memoryWf_repeated : Memory.wf [(5, 1), (5, 2)] = false := by decide
theorem test_memoryWf_resetByte : Memory.wf [(0x050, 0xF0)] = false := by decide
theorem test_memoryWf_outside : Memory.wf [(4096, 1)] = false := by decide
theorem test_memoryWf_accepts : Memory.wf [(0x050, 0), (4095, 1)] = true := by decide

/-! ### Decoding, one word a row (R91, R96), and illegal words (95_test_vectors.md section 2.6) -/

theorem test_decode_00E0 : decodeTableWord 16 0b0000000011100000 = some (.op00E0) := by decide
theorem test_decode_00EE : decodeTableWord 16 0b0000000011101110 = some (.op00EE) := by decide
theorem test_decode_1NNN : decodeTableWord 16 0b0001101010111100 = some (.op1NNN 0xABC) := by decide
theorem test_decode_2NNN : decodeTableWord 16 0b0010001100000001 = some (.op2NNN 0x301) := by decide
theorem test_decode_3XNN : decodeTableWord 16 0b0011111110000000 = some (.op3XNN 15 0x80) := by decide
theorem test_decode_4XNN : decodeTableWord 16 0b0100000100000011 = some (.op4XNN 1 0x03) := by decide
theorem test_decode_5XY0 : decodeTableWord 16 0b0101001000110000 = some (.op5XY0 2 3) := by decide
theorem test_decode_6XNN : decodeTableWord 16 0b0110101001111011 = some (.op6XNN 10 0x7B) := by decide
theorem test_decode_7XNN : decodeTableWord 16 0b0111000111111110 = some (.op7XNN 1 0xFE) := by decide
theorem test_decode_8XY0 : decodeTableWord 16 0b1000000100100000 = some (.op8XY0 1 2) := by decide
theorem test_decode_8XY1 : decodeTableWord 16 0b1000001101000001 = some (.op8XY1 3 4) := by decide
theorem test_decode_8XY2 : decodeTableWord 16 0b1000010101100010 = some (.op8XY2 5 6) := by decide
theorem test_decode_8XY3 : decodeTableWord 16 0b1000011110000011 = some (.op8XY3 7 8) := by decide
theorem test_decode_8XY4 : decodeTableWord 16 0b1000100110100100 = some (.op8XY4 9 10) := by decide
theorem test_decode_8XY5 : decodeTableWord 16 0b1000101111000101 = some (.op8XY5 11 12) := by decide
theorem test_decode_8XY6 : decodeTableWord 16 0b1000110111100110 = some (.op8XY6 13 14) := by decide
theorem test_decode_8XY7 : decodeTableWord 16 0b1000111100000111 = some (.op8XY7 15 0) := by decide
theorem test_decode_8XYE : decodeTableWord 16 0b1000000110101110 = some (.op8XYE 1 10) := by decide
theorem test_decode_9XY0 : decodeTableWord 16 0b1001001011010000 = some (.op9XY0 2 13) := by decide
theorem test_decode_ANNN : decodeTableWord 16 0b1010001100000100 = some (.opANNN 0x304) := by decide
theorem test_decode_BNNN : decodeTableWord 16 0b1011111111111110 = some (.opBNNN 0xFFE) := by decide
theorem test_decode_CXNN : decodeTableWord 16 0b1100000100001111 = some (.opCXNN 1 0x0F) := by decide
theorem test_decode_DXYN : decodeTableWord 16 0b1101000100101111 = some (.opDXYN 1 2 15) := by decide
theorem test_decode_EX9E : decodeTableWord 16 0b1110001110011110 = some (.opEX9E 3) := by decide
theorem test_decode_EXA1 : decodeTableWord 16 0b1110110010100001 = some (.opEXA1 12) := by decide
theorem test_decode_FX07 : decodeTableWord 16 0b1111000100000111 = some (.opFX07 1) := by decide
theorem test_decode_FX0A : decodeTableWord 16 0b1111001100001010 = some (.opFX0A 3) := by decide
theorem test_decode_FX15 : decodeTableWord 16 0b1111000000010101 = some (.opFX15 0) := by decide
theorem test_decode_FX18 : decodeTableWord 16 0b1111111100011000 = some (.opFX18 15) := by decide
theorem test_decode_FX1E : decodeTableWord 16 0b1111001000011110 = some (.opFX1E 2) := by decide
theorem test_decode_FX29 : decodeTableWord 16 0b1111010000101001 = some (.opFX29 4) := by decide
theorem test_decode_FX33 : decodeTableWord 16 0b1111010100110011 = some (.opFX33 5) := by decide
theorem test_decode_FX55 : decodeTableWord 16 0b1111011001010101 = some (.opFX55 6) := by decide
theorem test_decode_FX65 : decodeTableWord 16 0b1111011101100101 = some (.opFX65 7) := by decide
theorem test_illegal_0000 : decodeTableWord 16 0x0000 = none := by decide
theorem test_illegal_00E1 : decodeTableWord 16 0x00E1 = none := by decide
theorem test_illegal_00EF : decodeTableWord 16 0x00EF = none := by decide
theorem test_illegal_0123 : decodeTableWord 16 0x0123 = none := by decide
theorem test_illegal_5231 : decodeTableWord 16 0x5231 = none := by decide
theorem test_illegal_523F : decodeTableWord 16 0x523F = none := by decide
theorem test_illegal_8128 : decodeTableWord 16 0x8128 = none := by decide
theorem test_illegal_812D : decodeTableWord 16 0x812D = none := by decide
theorem test_illegal_812F : decodeTableWord 16 0x812F = none := by decide
theorem test_illegal_9231 : decodeTableWord 16 0x9231 = none := by decide
theorem test_illegal_E0A0 : decodeTableWord 16 0xE0A0 = none := by decide
theorem test_illegal_E19D : decodeTableWord 16 0xE19D = none := by decide
theorem test_illegal_F000 : decodeTableWord 16 0xF000 = none := by decide
theorem test_illegal_F00B : decodeTableWord 16 0xF00B = none := by decide
theorem test_illegal_F075 : decodeTableWord 16 0xF075 = none := by decide
theorem test_illegal_F085 : decodeTableWord 16 0xF085 = none := by decide
theorem test_illegal_FFFF : decodeTableWord 16 0xFFFF = none := by decide
theorem test_truncated : decodeBytes [0x6A] = .error .truncated := by rfl
theorem test_rest : decodeBytes [0x6A, 0x02, 0xFF] = .ok (.op6XNN 10 2, [0xFF]) := by rfl

/-! ### One-step tests -/

/-- The reset state with a word where the next step fetches. -/
def boot (w : Nat) : State := State.reset.withFetchWord 16 w

/-- The same, with the word at an address of one's choice. -/
def bootAt (pc : Word) (w : Nat) : State := ({ State.reset with pc := pc } : State).withFetchWord 16 w

/-- Some registers set. -/
def regs (s : State) (l : List (Reg × Byte)) : State := l.foldl (fun t p => t.setReg p.1 p.2) s

/-- Whether the state is a next state that passes a check. -/
def after (a : Answer) (p : State → Bool) : Bool :=
  match a with
  | .next t => p t
  | _ => false

/-- Halted with this error. -/
def haltedWith (k : ErrKind) (pc op : Word) (t : State) : Bool := t.run == .halted && t.err == ⟨k, pc, op⟩ && t.pc == pc

/-- 95_test_vectors.md TA1. -/
theorem test_add_overflow : after (step (regs (boot 0x8124) [(1, 250), (2, 10)])) (fun t => t.reg 1 == 4 && t.reg 15 == 1 && t.pc == 0x202) = true := by decide

/-- 95_test_vectors.md TA6. -/
theorem test_add_flag_operand : after (step (regs (boot 0x8F24) [(15, 200), (2, 100)])) (fun t => t.reg 15 == 101) = true := by decide

/-- 95_test_vectors.md TA14. -/
theorem test_sub_equal : after (step (regs (boot 0x8125) [(1, 7), (2, 7), (15, 9)])) (fun t => t.reg 1 == 0 && t.reg 15 == 0) = true := by decide

/-- 95_test_vectors.md TA17. -/
theorem test_sub_flag_operand : after (step (regs (boot 0x81F5) [(1, 5), (15, 3)])) (fun t => t.reg 1 == 4 && t.reg 15 == 1) = true := by decide

/-- 95_test_vectors.md TA21. -/
theorem test_subn_borrow : after (step (regs (boot 0x8127) [(1, 10), (2, 3)])) (fun t => t.reg 1 == 249 && t.reg 15 == 0) = true := by decide

/-- 95_test_vectors.md TA23. -/
theorem test_subn_flag_operand : after (step (regs (boot 0x8F27) [(15, 2), (2, 9)])) (fun t => t.reg 15 == 8) = true := by decide

/-- 95_test_vectors.md TA27. -/
theorem test_shl_flag_128 : after (step (regs (boot 0x810E) [(1, 0x81)])) (fun t => t.reg 1 == 0x02 && t.reg 15 == 0x80) = true := by decide

/-- 95_test_vectors.md TA30. -/
theorem test_shl_vf : after (step (regs (boot 0x8F0E) [(15, 0xFF)])) (fun t => t.reg 15 == 0) = true := by decide

/-- 95_test_vectors.md TA33. -/
theorem test_shr_ignores_y : after (step (regs (boot 0x81A6) [(1, 0xFF), (10, 3)])) (fun t => t.reg 1 == 0x7F && t.reg 15 == 1 && t.reg 10 == 3) = true := by decide

/-- 95_test_vectors.md TA34. -/
theorem test_shr_vf : after (step (regs (boot 0x8F06) [(15, 0xFF)])) (fun t => t.reg 15 == 0) = true := by decide

/-- 95_test_vectors.md TA36. -/
theorem test_load_immediate : after (step (boot 0x6A7B)) (fun t => t.reg 10 == 0x7B) = true := by decide

/-- 95_test_vectors.md TA39. -/
theorem test_add_immediate_wraps : after (step (regs (boot 0x7101) [(1, 255)])) (fun t => t.reg 1 == 0 && t.reg 15 == 0) = true := by decide

/-- 95_test_vectors.md TA41. -/
theorem test_copy : after (step (regs (boot 0x8120) [(2, 7)])) (fun t => t.reg 1 == 7) = true := by decide

/-- 95_test_vectors.md TA42. -/
theorem test_or_keeps_vf : after (step (regs (boot 0x8121) [(1, 0xF0), (2, 0x0F), (15, 5)])) (fun t => t.reg 1 == 0xFF && t.reg 15 == 5) = true := by decide

/-- 95_test_vectors.md TA43. -/
theorem test_and : after (step (regs (boot 0x8122) [(1, 0xF3), (2, 0x3C), (15, 5)])) (fun t => t.reg 1 == 0x30 && t.reg 15 == 5) = true := by decide

/-- 95_test_vectors.md TA44. -/
theorem test_xor : after (step (regs (boot 0x8123) [(1, 0xFF), (2, 0x0F), (15, 5)])) (fun t => t.reg 1 == 0xF0 && t.reg 15 == 5) = true := by decide

/-- 95_test_vectors.md TC1. -/
theorem test_jump : after (step (boot 0x1ABC)) (fun t => t.pc == 0xABC) = true := by decide

/-- 95_test_vectors.md TC5. -/
theorem test_call_sixteenth : after (step ({ bootAt 0x204 0x2300 with sp := 15 })) (fun t => t.stack[15] == 0x204 && t.sp == 16 && t.pc == 0x300) = true := by decide

/-- 95_test_vectors.md TC6. -/
theorem test_call_overflow : after (step ({ bootAt 0x204 0x2300 with sp := 16 })) (fun t => haltedWith .stackOverflow 0x204 0x2300 t && t.sp == 16) = true := by decide

/-- 95_test_vectors.md TC7. -/
theorem test_return : after (step ({ bootAt 0x300 0x00EE with sp := 1, stack := (Vector.replicate 16 0).set 0 0x204 })) (fun t => t.sp == 0 && t.pc == 0x206 && t.stack[0] == 0x204) = true := by decide

/-- 95_test_vectors.md TC8. -/
theorem test_return_underflow : after (step (bootAt 0x300 0x00EE)) (fun t => haltedWith .stackUnderflow 0x300 0x00EE t) = true := by decide

/-- 95_test_vectors.md TC9b. -/
theorem test_offset_jump_not_reduced : after (step (regs (boot 0xBFFF) [(0, 0xFF)])) (fun t => t.pc == 0x10FE) = true := by decide

/-- 95_test_vectors.md TC9c. -/
theorem test_offset_jump_v0 : after (step (regs (boot 0xB201) [(2, 9)])) (fun t => t.pc == 0x201) = true := by decide

/-- 95_test_vectors.md TC10. -/
theorem test_skip_eq_immediate : after (step (regs (bootAt 0x202 0x3005) [(0, 5)])) (fun t => t.pc == 0x206) = true := by decide

/-- 95_test_vectors.md TC13. -/
theorem test_skip_ne_immediate : after (step (regs (bootAt 0x300 0x4100) [(1, 1)])) (fun t => t.pc == 0x304) = true := by decide

/-- 95_test_vectors.md TC15. -/
theorem test_skip_eq_registers : after (step (regs (bootAt 0x210 0x5230) [(2, 9), (3, 8)])) (fun t => t.pc == 0x212) = true := by decide

/-- 95_test_vectors.md TC17. -/
theorem test_skip_ne_registers : after (step (regs (bootAt 0x210 0x9230) [(2, 9), (3, 8)])) (fun t => t.pc == 0x214) = true := by decide

/-- 95_test_vectors.md TC22. -/
theorem test_fetch_at_fff : after (step ({ State.reset with pc := 0xFFF, dt := 5 })) (fun t => haltedWith .outOfBoundsFetch 0xFFF 0 t && t.dt == 5) = true := by decide

/-- 95_test_vectors.md TC21. -/
theorem test_last_fetch : after (step (bootAt 0xFFE 0x6000)) (fun t => t.pc == 0x1000 && t.run == .running) = true := by decide

/-- 95_test_vectors.md TH4, section 2.6. -/
theorem test_zero_word_halts : after (step ({ State.reset with dt := 4 })) (fun t => haltedWith .unsupportedOpcode 0x200 0x0000 t && t.dt == 4) = true := by decide

/-- 95_test_vectors.md TM2. -/
theorem test_load_index : after (step (boot 0xAFFF)) (fun t => t.i == 0xFFF) = true := by decide

/-- 95_test_vectors.md TM5. -/
theorem test_index_add_wraps : after (step (regs { boot 0xF21E with i := 0xFFFF } [(2, 2)])) (fun t => t.i == 0x0001) = true := by decide

/-- 95_test_vectors.md TM4. -/
theorem test_index_add_no_flag : after (step (regs { boot 0xF21E with i := 0xFFF } [(2, 1), (15, 7)])) (fun t => t.i == 0x1000 && t.reg 15 == 7) = true := by decide

/-- 95_test_vectors.md TM8. -/
theorem test_glyph_no_mask : after (step (regs (boot 0xF029) [(0, 255)])) (fun t => t.i == 0x54B) = true := by decide

/-- 95_test_vectors.md TM11. -/
theorem test_bcd : after (step (regs { boot 0xF333 with i := 0xFFD } [(3, 123)])) (fun t => t.mem.read 0xFFD == 1 && t.mem.read 0xFFE == 2 && t.mem.read 0xFFF == 3) = true := by decide

/-- 95_test_vectors.md TM12. -/
theorem test_bcd_out_of_range : after (step (regs { boot 0xF333 with i := 0xFFE } [(3, 123)])) (fun t => haltedWith .outOfBoundsAccess 0x200 0xF333 t && t.mem.read 0xFFE == 0) = true := by decide

/-- 95_test_vectors.md TM13. -/
theorem test_store_registers : after (step (regs { boot 0xF255 with i := 0x300 } [(0, 1), (1, 2), (2, 3), (3, 4)])) (fun t => t.mem.read 0x300 == 1 && t.mem.read 0x302 == 3 && t.mem.read 0x303 == 0 && t.i == 0x303) = true := by decide

/-- 95_test_vectors.md TM15. -/
theorem test_store_out_of_range : after (step (regs { boot 0xF155 with i := 0xFFF } [(0, 0xAA)])) (fun t => haltedWith .outOfBoundsAccess 0x200 0xF155 t && t.mem.read 0xFFF == 0 && t.i == 0xFFF) = true := by decide

/-- 95_test_vectors.md TM18. -/
theorem test_load_registers : after (step (regs { (boot 0xF265).storeBytes 0x300 [0, 1, 5, 9] with i := 0x300 } [(3, 0x77)])) (fun t => t.reg 0 == 0 && t.reg 1 == 1 && t.reg 2 == 5 && t.reg 3 == 0x77 && t.i == 0x303) = true := by decide

/-- 95_test_vectors.md TM21. -/
theorem test_load_no_alias : after (step (regs { boot 0xF065 with i := 0x1000 } [(0, 3)])) (fun t => haltedWith .outOfBoundsAccess 0x200 0xF065 t && t.reg 0 == 3) = true := by decide

/-- 95_test_vectors.md TK2 (the draw itself is free). -/
theorem test_random_mask_zero : after (step (boot 0xC100)) (fun t => t.pc == 0x202 && t.draws == 1) = true := by decide

/-- 95_test_vectors.md TK4. -/
theorem test_key_down : after (step (regs { bootAt 0x220 0xE39E with key := 0x20 } [(3, 5)])) (fun t => t.pc == 0x224) = true := by decide

/-- 95_test_vectors.md TK6. -/
theorem test_key_invalid : after (step (regs (bootAt 0x220 0xE39E) [(3, 16)])) (fun t => haltedWith .invalidKeyIndex 0x220 0xE39E t) = true := by decide

/-- 95_test_vectors.md TK7. -/
theorem test_key_up : after (step (regs (bootAt 0x220 0xE3A1) [(3, 5)])) (fun t => t.pc == 0x224) = true := by decide

/-- 95_test_vectors.md TK9. -/
theorem test_key_up_invalid : after (step (regs (bootAt 0x220 0xE3A1) [(3, 255)])) (fun t => haltedWith .invalidKeyIndex 0x220 0xE3A1 t) = true := by decide

/-- 95_test_vectors.md TK10, step 1. -/
theorem test_wait_blocked : after (step ({ boot 0xF30A with dt := 3, st := 1 })) (fun t => t.pc == 0x200 && t.run == .awaitingKey && t.dt == 2 && t.st == 0) = true := by decide

/-- 95_test_vectors.md TK10, step 3. -/
theorem test_wait_lowest_key : after (step ({ boot 0xF30A with dt := 1, key := 0x220, run := .awaitingKey })) (fun t => t.reg 3 == 5 && t.pc == 0x202 && t.run == .running && t.dt == 0) = true := by decide

/-- 95_test_vectors.md TK13. -/
theorem test_read_delay : after (step ({ boot 0xF107 with dt := 2 })) (fun t => t.reg 1 == 2 && t.dt == 1) = true := by decide

/-- 95_test_vectors.md TK15. -/
theorem test_set_delay : after (step (regs (boot 0xF015) [(0, 3)])) (fun t => t.dt == 2) = true := by decide

/-- 95_test_vectors.md TK18. -/
theorem test_set_sound : after (step (regs (boot 0xF018) [(0, 1)])) (fun t => t.st == 0) = true := by decide

/-- 95_test_vectors.md TK20. -/
theorem test_both_timers_fall : after (step ({ boot 0x6000 with dt := 1, st := 2 })) (fun t => t.dt == 0 && t.st == 1) = true := by decide

/-- 95_test_vectors.md TD1. -/
theorem test_clear : after (step ({ boot 0x00E0 with disp := (Vector.replicate 32 0).set 31 0x8000000000000000 })) (fun t => t.disp == clearDisplay && t.redraw && t.pc == 0x202) = true := by decide

/-- 95_test_vectors.md TD3. -/
theorem test_draw_wraps : after (step (regs { (boot 0xD012).storeBytes 0x300 [0xFF, 0x81] with i := 0x300 } [(0, 62), (1, 31)])) (fun t => cellLit t.disp (31 * 64 + 62) && cellLit t.disp (31 * 64 + 5) && !cellLit t.disp (31 * 64 + 6) && cellLit t.disp 62 && cellLit t.disp 5 && t.reg 15 == 0 && t.redraw) = true := by decide

/-- 95_test_vectors.md TD10. -/
theorem test_draw_out_of_range : after (step (regs { boot 0xD012 with i := 0xFFF, disp := (Vector.replicate 32 0).set 0 1 } [(15, 3)])) (fun t => haltedWith .outOfBoundsAccess 0x200 0xD012 t && t.reg 15 == 3 && cellLit t.disp 0 && !t.redraw) = true := by decide

/-- 95_test_vectors.md TK1: the draw given. -/
theorem test_random_draw_given : after (stepWith 0xA7 (boot 0xC10F)) (fun t => t.reg 1 == 0x07 && t.pc == 0x202) = true := by decide

/-! ### Host operations (95_test_vectors.md section 2.7) -/

/-- TH3: too large an image changes nothing. -/
theorem test_load_too_large :
    hostOp (.loadProgram (List.replicate 3585 0)) (.loading State.reset) = .next (.loading State.reset, .programTooLarge) := by
  have rejected : ∀ (s : State) (image : List Byte), imageFits image = false →
      hostOp (.loadProgram image) (.loading s) = .next (.loading s, .programTooLarge) := by
    intro s image h
    simp [hostOp, hostLoad, State.loadProgram, h]
  exact rejected _ _ test_imageFits_refuses

/-- TH5: an image of one byte; the fetched word is 0x6A00. -/
theorem test_load_odd_length :
    (State.reset.loadProgram [0x6A]).any (fun s => after (step s) (fun t => t.reg 10 == 0 && t.pc == 0x202)) = true := by decide

/-- TH6: a halted core does nothing more. -/
theorem test_halted_step : after (step { State.reset with run := .halted, dt := 9 }) (fun t => t.dt == 9 && t.run == .halted) = true := by
  decide

/-- TH7: Initialize leaves Halted and the program is gone. -/
theorem test_initialize_recovers :
    ((boot 0x1200).raise .unsupportedOpcode 0).reinit.run = .running ∧ ((boot 0x1200).reinit.mem.read 0x200 = 0) := by decide

/-- R271: before Initialize a Step is refused; R274: a load after a Step is refused. -/
theorem test_windows :
    hostOp (.step 0) .off = .refused .beforeInitialize ∧
      hostOp (.loadProgram []) (.stepping State.reset) = .refused .loadOutsideWindow := ⟨rfl, rfl⟩

/-! ### Witnesses: for each statement with hypotheses, a state and operands that meet them, one a clause -/

theorem witness_encodeOfDecoded : decode 0x8124 = some (.op8XY4 1 2) := by decide
theorem witness_rowsMatch : ∃ r ∈ opcodeRows, (0xE39E : Word) &&& r.mask = r.bits := by decide
theorem witness_stepRuns : (boot 0x6005).run ≠ .halted ∧ (boot 0x6005).fetch = some 0x6005 ∧
    decode 0x6005 = some (.op6XNN 0 5) := by decide
theorem witness_halted : ({ State.reset with run := .halted } : State).run = .halted := rfl
theorem witness_fetchFails : 4096 ≤ ({ State.reset with pc := 0xFFF } : State).pc.toNat + 1 ∧
    ({ State.reset with pc := 0xFFF } : State).run ≠ .halted := by decide
theorem witness_fetchSucceeds : ({ State.reset with pc := 0xFFE } : State).pc.toNat + 1 < 4096 := by decide
theorem witness_unsupported : State.reset.run ≠ .halted ∧ State.reset.fetch = some 0 ∧ wordLegal 0 = false := by decide

/-- A booted word executes as its instruction. -/
theorem executes_of {s : State} {w : Word} {i : Instr} (hr : s.run ≠ .halted) (hf : s.fetch = some w)
    (hd : decode w = some i) : Executes s i := ⟨hr, w, hf, hd⟩

theorem witness_timersOther : Executes (boot 0x6005) (.op6XNN 0 5) ∧
    ∃ t, step (boot 0x6005) = .next t ∧ t.run ≠ .halted :=
  ⟨executes_of (by decide) (by decide) (w := 0x6005) (by decide), _, rfl, by decide⟩
theorem witness_timersFX15 : Executes (boot 0xF015) (.opFX15 0) ∧
    ∃ t, step (boot 0xF015) = .next t ∧ t.run ≠ .halted :=
  ⟨executes_of (by decide) (by decide) (w := 0xF015) (by decide), _, rfl, by decide⟩
theorem witness_timersFX18 : Executes (boot 0xF018) (.opFX18 0) ∧
    ∃ t, step (boot 0xF018) = .next t ∧ t.run ≠ .halted :=
  ⟨executes_of (by decide) (by decide) (w := 0xF018) (by decide), _, rfl, by decide⟩
theorem witness_errorFetch : stepError { State.reset with pc := 0xFFF } = some (.outOfBoundsFetch, 0) ∧
    ({ State.reset with pc := 0xFFF } : State).run ≠ .halted := by decide
theorem witness_errorDecode : stepError State.reset = some (.unsupportedOpcode, 0) ∧ State.reset.run ≠ .halted := by decide
theorem witness_errorInstr : stepError (boot 0x00EE) = some (.stackUnderflow, 0x00EE) ∧ (boot 0x00EE).run ≠ .halted := by decide
theorem witness_errorNone : stepError (boot 0x6005) = none ∧ (boot 0x6005).run ≠ .halted := by decide
theorem witness_runHalted : ∃ t, step { State.reset with run := .halted } = .next t := ⟨_, rfl⟩
theorem witness_runError : (∃ t, step State.reset = .next t) ∧ State.reset.run ≠ .halted ∧ stepError State.reset ≠ none :=
  ⟨⟨_, rfl⟩, by decide, by decide⟩
theorem witness_runBlocked : Executes (boot 0xF30A) (.opFX0A 3) ∧ (boot 0xF30A).key = 0 ∧ ∃ t, step (boot 0xF30A) = .next t :=
  ⟨executes_of (by decide) (by decide) (w := 0xF30A) (by decide), by decide, _, rfl⟩
theorem witness_runKey : Executes { boot 0xF30A with key := 0x8000 } (.opFX0A 3) ∧
    ({ boot 0xF30A with key := 0x8000 } : State).key ≠ 0 ∧ ∃ t, step { boot 0xF30A with key := 0x8000 } = .next t :=
  ⟨executes_of (by decide) (by decide) (w := 0xF30A) (by decide), by decide, _, rfl⟩
theorem witness_runOther : Executes (boot 0x6005) (.op6XNN 0 5) ∧ stepError (boot 0x6005) = none ∧
    (∀ x, Instr.op6XNN 0 5 ≠ .opFX0A x) ∧ ∃ t, step (boot 0x6005) = .next t :=
  ⟨executes_of (by decide) (by decide) (w := 0x6005) (by decide), by decide, by intro x; simp, _, rfl⟩
theorem witness_initialize : State.reset = State.reset ∧ ∃ s : State, State.reset.reinit = s.reinit := ⟨rfl, _, rfl⟩

/-- A store about to run, canonical, with every invariant. -/
theorem witness_invariant : (boot 0xF233).Inv ∧ ∃ t, step (boot 0xF233) = .next t := ⟨by decide, _, rfl⟩
theorem witness_memoryChanges : (regs { boot 0xF033 with i := 0x300 } [(0, 1)]).mem.wf = true ∧
    after (step (regs { boot 0xF033 with i := 0x300 } [(0, 1)])) (fun t =>
      t.mem.read 0x302 != (regs { boot 0xF033 with i := 0x300 } [(0, 1)]).mem.read 0x302) = true := by decide
theorem witness_displayChanges : Executes (boot 0x00E0) .op00E0 ∧
    after (step (boot 0x00E0)) (fun t => t.redraw != (boot 0x00E0).redraw && t.run != .halted) = true :=
  ⟨executes_of (by decide) (by decide) (w := 0x00E0) (by decide), by decide⟩
theorem witness_displayDraw : Executes (boot 0xD010) (.opDXYN 0 1 0) ∧
    after (step (boot 0xD010)) (fun t => t.run != .halted) = true :=
  ⟨executes_of (by decide) (by decide) (w := 0xD010) (by decide), by decide⟩
theorem witness_redrawKept : ({ boot 0x6005 with redraw := true } : State).redraw = true ∧
    ∃ t, step { boot 0x6005 with redraw := true } = .next t := ⟨rfl, _, rfl⟩
theorem witness_keys : (∃ t, stepWith 7 (boot 0xC1FF) = .next t) ∧ (∃ t, State.reset.loadProgram [1] = some t) :=
  ⟨⟨_, rfl⟩, ⟨_, rfl⟩⟩
theorem witness_notRead : ∃ t, step (boot 0xF018) = .next t := ⟨_, rfl⟩
theorem witness_noDraw : ∀ x nn, ¬ Executes State.reset (.opCXNN x nn) := by
  intro x nn h
  obtain ⟨_, w, hf, hd⟩ := h
  have : State.reset.fetch = some 0 := by decide
  rw [this] at hf
  injection hf with hf
  subst hf
  have : decode 0 = none := by decide
  rw [this] at hd
  contradiction
theorem witness_jumpToSelf : Executes (boot 0x1200) (.op1NNN 0x200) ∧ (0x200 : Addr).toNat = (boot 0x1200).pc.toNat :=
  ⟨executes_of (by decide) (by decide) (w := 0x1200) (by decide), by decide⟩
theorem witness_callFree : ({ State.reset with sp := 15 } : State).sp.val < 16 := by decide
theorem witness_callFull : ({ State.reset with sp := 16 } : State).sp.val = 16 := by decide
theorem witness_return : ({ State.reset with sp := 16 } : State).sp.val = (15 : Fin 16).val + 1 := by decide
theorem witness_returnEmpty : State.reset.sp.val = 0 := by decide
theorem witness_callReturn : ({ State.reset with sp := 15 } : State).sp.val < 16 ∧
    ∃ t u : State, exec (.op2NNN 0x300) { State.reset with sp := 15 } = .next t ∧ u.sp = t.sp ∧
      ∀ k : Fin 16, k.val = 15 → u.stack[k.val] = t.stack[k.val] :=
  ⟨by decide, _, _, rfl, rfl, fun _ _ => rfl⟩
/-- The same after a subroutine that called and returned: a dead slot above differs, the saved slot does not. -/
theorem witness_callReturnNested : ∃ t u : State, exec (.op2NNN 0x300) State.reset = .next t ∧ u.sp = t.sp ∧
    u.stack[1] ≠ t.stack[1] ∧ ∀ k : Fin 16, k.val = State.reset.sp.val → u.stack[k.val] = t.stack[k.val] :=
  ⟨_, { State.reset with stack := ((Vector.replicate 16 0).set 0 0x200).set 1 0x304, sp := 1 }, rfl, rfl, by decide, by decide⟩
theorem witness_skip : State.reset.reg 1 = 0 ∧ State.reset.reg 1 ≠ 5 := by decide
theorem witness_skipRegisters : State.reset.reg 1 = State.reset.reg 2 ∧
    (regs State.reset [(1, 9)]).reg 1 ≠ (regs State.reset [(1, 9)]).reg 2 := by decide
theorem witness_aluPlain : (1 : Reg) ≠ 15 ∧ (2 : Reg) ≠ 15 ∧ 255 = ((regs State.reset [(1, 255)]).reg 1).toNat ∧
    0 = ((regs State.reset [(1, 255)]).reg 2).toNat ∧ 0 = (if 255 + 0 > 255 then 1 else 0) ∧ 1 = (if 255 > 0 then 1 else 0) := by
  decide
theorem witness_aluFlag : 255 = ((regs State.reset [(15, 255)]).reg 15).toNat ∧ 1 = (if 255 + 255 > 255 then 1 else 0) ∧
    0 = (if 255 > 255 then 1 else 0) := by decide
theorem witness_bcd : ({ State.reset with i := 0xFFD } : State).mem.wf = true ∧
    ({ State.reset with i := 0xFFD } : State).i.toNat + 2 ≤ 4095 := by decide
theorem witness_block : ({ State.reset with i := 0xFF0 } : State).mem.wf = true ∧
    ({ State.reset with i := 0xFF0 } : State).i.toNat + (15 : Reg).val ≤ 4095 := by decide
theorem witness_storeThenLoad : ∃ t u : State, exec (.opFX55 15) { State.reset with i := 0xFF0 } = .next t ∧
    u.mem = t.mem ∧ u.i = ({ State.reset with i := 0xFF0 } : State).i :=
  ⟨_, { State.reset with mem := _, i := 0xFF0 }, rfl, rfl, rfl⟩
theorem witness_storeThenFetch : ∃ t u : State, exec (.opFX55 15) { State.reset with i := 0xFF0 } = .next t ∧
    (15 : Reg).val = (14 : Reg).val + 1 ∧ (15 : Reg).val ≤ (15 : Reg).val ∧ u.mem = t.mem ∧
    u.pc.toNat = ({ State.reset with i := 0xFF0 } : State).i.toNat + (14 : Reg).val :=
  ⟨_, { State.reset with mem := _, pc := 0xFFE }, rfl, rfl, by decide, rfl, by decide⟩
theorem witness_codeAccess : lastOffset (.opDXYN 0 0 2) = some 1 ∧ lastOffset (.opFX33 0) = some 2 ∧
    lastOffset (.opFX55 1) = some 1 ∧ lastOffset (.opFX65 1) = some 1 ∧
    4095 < ({ State.reset with i := 0xFFF } : State).i.toNat + 1 := by decide
theorem witness_codeKey : Instr.opEX9E 3 = .opEX9E 3 ∧ 15 < ((regs State.reset [(3, 16)]).reg 3).toNat := by decide
theorem witness_outOfRange : 4095 < ({ State.reset with i := 0xFFE } : State).i.toNat + 2 ∧
    4095 < ({ State.reset with i := 0xFFF } : State).i.toNat + (1 : Reg).val ∧
    1 ≤ (2 : Fin 16).val ∧ 4095 < ({ State.reset with i := 0xFFF } : State).i.toNat + (2 : Fin 16).val - 1 := by decide
theorem witness_keyDown : ((regs State.reset [(3, 15)]).reg 3).toNat ≤ 15 ∧
    ({ regs State.reset [(3, 15)] with key := 0x8000 } : State).key.getLsbD 15 = true ∧
    (regs State.reset [(3, 15)]).key.getLsbD 15 = false ∧ 15 < ((regs State.reset [(3, 16)]).reg 3).toNat := by decide
theorem witness_waitKey : (0x8000 : BitVec 16).getLsbD 15 = true ∧ (∀ j, j < 15 → (0x8000 : BitVec 16).getLsbD j = false) ∧
    (∀ k, k < 16 → State.reset.key.getLsbD k = false) := by decide
theorem witness_draw : ({ State.reset with i := 0xFFF } : State).i.toNat + (1 : Fin 16).val - 1 ≤ 4095 ∧ (0 : Fin 16).val = 0 := by
  decide

/-- One lit sprite bit at the top left corner, over a clear and over a lit cell. -/
theorem witness_drawCovers : SpriteCovers { State.reset with i := 0x050 } 0 0 1 0 :=
  ⟨0, 0, by decide, by decide, by decide, by decide⟩
theorem witness_drawMisses : ¬ SpriteCovers { State.reset with i := 0x050 } 0 0 0 0 := by
  rintro ⟨row, _, h, _⟩
  exact absurd h (Nat.not_lt_zero row)
theorem witness_drawCollides : cellLit (({ State.reset with disp := (Vector.replicate 32 0).set 0 1 } : State).disp) 0 = true := by
  decide
theorem witness_drawTwice : ∃ t u : State, exec (.opDXYN 0 0 1) { State.reset with i := 0x050 } = .next t ∧ u.disp = t.disp ∧
    u.mem = State.reset.mem ∧ u.i = 0x050 ∧ u.reg 0 = State.reset.reg 0 ∧
    ∀ k, SpriteCovers { State.reset with i := 0x050 } 0 0 1 k → cellLit State.reset.disp k = false :=
  ⟨_, { State.reset with disp := _, i := 0x050 }, rfl, rfl, rfl, rfl, rfl, fun k _ => by
    simp [State.reset, cellLit, displayRow]⟩
theorem witness_load : State.reset.mem.wf = true ∧ (List.replicate 3584 (0xAB : Byte)).length ≤ 3584 := by
  rw [List.length_replicate]
  decide
theorem witness_host : (Session.loading State.reset).core? = some State.reset ∧ HostOp.readStatus ≠ .init ∧
    (List.replicate 3584 (0 : Byte)).length ≤ 3584 ∧ 3584 < (List.replicate 3585 (0 : Byte)).length ∧
    ∃ t, stepWith 0 State.reset = .next t := by
  rw [List.length_replicate, List.length_replicate]
  exact ⟨rfl, by decide, by decide, by decide, _, rfl⟩
theorem witness_frames : onlyMovesPc (.op1NNN 0) = true ∧ plainDest (.op6XNN 1 2) = some 1 ∧ flagDest (.op8XY4 1 2) = some 1 ∧
    onlySetsIndex (.opANNN 0) = true := by decide
theorem witness_framesNext : (∃ t, exec (.op1NNN 0) State.reset = .next t) ∧ (∃ t, exec (.op6XNN 1 2) State.reset = .next t) ∧
    (∃ t, exec (.op8XY4 1 2) State.reset = .next t) ∧ (∃ t, exec (.opANNN 0) State.reset = .next t) ∧
    (∃ t, exec (.opCXNN 1 2) State.reset = .next t) ∧ (∃ t, exec (.opFX0A 1) State.reset = .next t) ∧
    (∃ t, exec (.opFX65 1) State.reset = .next t) ∧ (∃ t, exec .op00E0 State.reset = .next t) :=
  ⟨⟨_, rfl⟩, ⟨_, rfl⟩, ⟨_, rfl⟩, ⟨_, rfl⟩, ⟨_, rfl⟩, ⟨_, rfl⟩, ⟨_, rfl⟩, ⟨_, rfl⟩⟩
theorem witness_framesRest : (∃ t, exec .op00EE State.reset = .next t) ∧ (∃ t, exec (.op2NNN 0) State.reset = .next t) ∧
    (∃ t, exec (.opEX9E 0) State.reset = .next t) ∧ (∃ t, exec (.opFX15 0) State.reset = .next t) ∧
    (∃ t, exec (.opFX18 0) State.reset = .next t) ∧ (∃ t, exec (.opFX33 0) State.reset = .next t) ∧
    (∃ t, exec (.opFX55 0) State.reset = .next t) ∧ (∃ t, exec (.opDXYN 0 0 1) State.reset = .next t) :=
  ⟨⟨_, rfl⟩, ⟨_, rfl⟩, ⟨_, rfl⟩, ⟨_, rfl⟩, ⟨_, rfl⟩, ⟨_, rfl⟩, ⟨_, rfl⟩, ⟨_, rfl⟩⟩

end Sys2Proof.Tests
end

section
/-! PROOFS. The host's two operations on the display (10_state.md R52, R53): what the snapshot lists, and what each operation
answers in a session that has a core. -/

namespace Sys2Proof.Machine

theorem State.length_readDisplay (s : State) : s.readDisplay.length = 2048 := by
  simp [State.readDisplay]

theorem State.getElem?_readDisplay (s : State) {k : Nat} (hk : k < 2048) :
    s.readDisplay[k]? = some (cellLit s.disp k) := by
  simp [State.readDisplay, hk]

theorem hostOp_readDisplay {s : State} {z : Session} (hcore : z.core? = some s) :
    hostOp .readDisplay z = .next (z, .display s.readDisplay) := by
  simp [hostOp, hcore]

theorem hostOp_clearRedraw {s : State} {z : Session} (hcore : z.core? = some s) :
    hostOp .clearRedraw z = .next (z.withCore s.clearRedraw, .done) := by
  simp [hostOp, hcore]

/-- Settles O54: the snapshot is a map over the cell numbers in order, and both operations answer off the session's core. -/
theorem readDisplayAndClearRedraw : Obligations.ReadDisplayAndClearRedraw := by
  unfold Obligations.ReadDisplayAndClearRedraw
  constructor
  · intro s z hcore
    exact ⟨s.readDisplay, hostOp_readDisplay hcore, s.length_readDisplay, fun _ hk => s.getElem?_readDisplay hk⟩
  · intro s z hcore
    exact hostOp_clearRedraw hcore

end Sys2Proof.Machine
end

section
/-! PROOFS. Jumps and register-compare skips (41_control_flow.md R142, R144 to R147): the meaning of each instruction, and where a
skip leaves `pc` when the two bytes it compares are equal and when they differ. -/

namespace Sys2Proof.Machine

/-! ### The meanings -/

theorem exec_op1NNN (nnn : Addr) (s : State) : exec (.op1NNN nnn) s = .next (s.jump (addrWord nnn)) := rfl
theorem exec_op3XNN (x : Reg) (nn : Byte) (s : State) : exec (.op3XNN x nn) s = .next (s.skipIf (s.reg x == nn)) := rfl
theorem exec_op4XNN (x : Reg) (nn : Byte) (s : State) : exec (.op4XNN x nn) s = .next (s.skipIf (s.reg x != nn)) := rfl
theorem exec_op5XY0 (x y : Reg) (s : State) : exec (.op5XY0 x y) s = .next (s.skipIf (s.reg x == s.reg y)) := rfl
theorem exec_op9XY0 (x y : Reg) (s : State) : exec (.op9XY0 x y) s = .next (s.skipIf (s.reg x != s.reg y)) := rfl

/-! ### A skip on a comparison of two bytes (R140) -/

theorem State.skipIf_true (s : State) : s.skipIf true = { s with pc := s.pc + 4 } := rfl
theorem State.skipIf_false (s : State) : s.skipIf false = { s with pc := s.pc + 2 } := rfl

theorem State.skipIf_beq_of_eq (s : State) {a b : Byte} (h : a = b) : s.skipIf (a == b) = { s with pc := s.pc + 4 } := by
  rw [beq_iff_eq.mpr h, s.skipIf_true]

theorem State.skipIf_beq_of_ne (s : State) {a b : Byte} (h : a ≠ b) : s.skipIf (a == b) = { s with pc := s.pc + 2 } := by
  rw [beq_eq_false_iff_ne.mpr h, s.skipIf_false]

theorem State.skipIf_bne_of_eq (s : State) {a b : Byte} (h : a = b) : s.skipIf (a != b) = { s with pc := s.pc + 2 } := by
  rw [bne_eq_false_iff_eq.mpr h, s.skipIf_false]

theorem State.skipIf_bne_of_ne (s : State) {a b : Byte} (h : a ≠ b) : s.skipIf (a != b) = { s with pc := s.pc + 4 } := by
  rw [bne_iff_ne.mpr h, s.skipIf_true]

/-- What a pair of opposite skips on one comparison answers: the skip on equality and the skip on inequality. -/
theorem State.skips_on_comparison (s : State) (a b : Byte) :
    (a = b →
      (.next (s.skipIf (a == b)) : Answer) = .next { s with pc := s.pc + 4 } ∧
      (.next (s.skipIf (a != b)) : Answer) = .next { s with pc := s.pc + 2 }) ∧
    (a ≠ b →
      (.next (s.skipIf (a == b)) : Answer) = .next { s with pc := s.pc + 2 } ∧
      (.next (s.skipIf (a != b)) : Answer) = .next { s with pc := s.pc + 4 }) := by
  constructor
  · intro heq
    rw [s.skipIf_beq_of_eq heq, s.skipIf_bne_of_eq heq]
    exact ⟨rfl, rfl⟩
  · intro hne
    rw [s.skipIf_beq_of_ne hne, s.skipIf_bne_of_ne hne]
    exact ⟨rfl, rfl⟩

/-! ### The obligations -/

/-- Settles O24: a jump replaces `pc` only, and extending the field to 16 bits keeps its value. -/
theorem jumpInstallsItsTarget : Obligations.JumpInstallsItsTarget := by
  unfold Obligations.JumpInstallsItsTarget
  intro nnn s
  exact ⟨s.jump (addrWord nnn), exec_op1NNN nnn s, rfl, toNat_addrWord nnn⟩

/-- Settles O29: both instructions skip on one comparison of `V[X]` with the immediate, 4XNN on its negation. -/
theorem immediateSkipsCompareTheRegister : Obligations.ImmediateSkipsCompareTheRegister := by
  unfold Obligations.ImmediateSkipsCompareTheRegister
  intro x nn s
  rw [exec_op3XNN, exec_op4XNN]
  exact s.skips_on_comparison (s.reg x) nn

/-- Settles O30: both instructions skip on one comparison of `V[X]` with `V[Y]`, 9XY0 on its negation. -/
theorem registerSkipsCompareTheRegisters : Obligations.RegisterSkipsCompareTheRegisters := by
  unfold Obligations.RegisterSkipsCompareTheRegisters
  intro x y s
  rw [exec_op5XY0, exec_op9XY0]
  exact s.skips_on_comparison (s.reg x) (s.reg y)

end Sys2Proof.Machine
end

section
/-! PROOFS. Instructions that write one register and no flag (42_register_alu.md R161 to R166): the meaning of each, and what a
register write followed by `pc + 2` changes and leaves. -/

namespace Sys2Proof.Machine

/-! ### The meanings -/

theorem exec_op6XNN (x : Reg) (nn : Byte) (s : State) : exec (.op6XNN x nn) s = .next (s.setReg x nn).advance := rfl
theorem exec_op7XNN (x : Reg) (nn : Byte) (s : State) :
    exec (.op7XNN x nn) s = .next (s.setReg x (s.reg x + nn)).advance := rfl
theorem exec_op8XY0 (x y : Reg) (s : State) : exec (.op8XY0 x y) s = .next (s.setReg x (s.reg y)).advance := rfl
theorem exec_op8XY1 (x y : Reg) (s : State) :
    exec (.op8XY1 x y) s = .next (s.setReg x (s.reg x ||| s.reg y)).advance := rfl
theorem exec_op8XY2 (x y : Reg) (s : State) :
    exec (.op8XY2 x y) s = .next (s.setReg x (s.reg x &&& s.reg y)).advance := rfl
theorem exec_op8XY3 (x y : Reg) (s : State) :
    exec (.op8XY3 x y) s = .next (s.setReg x (s.reg x ^^^ s.reg y)).advance := rfl

/-! ### One register written, then `pc + 2` -/

theorem State.setReg_advance_eq (s : State) (x : Reg) (b : Byte) :
    (s.setReg x b).advance = { s with v := (s.setReg x b).advance.v, pc := s.pc + 2 } := rfl

/-- An answer that writes one register and advances, in the form the obligations ask: `P` is what they say of the byte written. -/
theorem State.writesOneRegister {a : Answer} {s : State} {x : Reg} {b : Byte} {P : Byte → Prop}
    (ha : a = .next (s.setReg x b).advance) (hb : P b) :
    ∃ t, a = .next t ∧ t = { s with v := t.v, pc := s.pc + 2 } ∧ P (t.reg x) ∧ ∀ r, r ≠ x → t.reg r = s.reg r := by
  refine ⟨(s.setReg x b).advance, ha, s.setReg_advance_eq x b, ?_, ?_⟩
  · rwa [State.advance_reg, State.reg_setReg_self]
  · intro r hr
    rw [State.advance_reg, s.reg_setReg_ne x r b hr]

/-- Bit by bit, `c` is `op` of `a` and `b`. -/
def BitwiseOf (op : Bool → Bool → Bool) (a b c : Byte) : Prop := ∀ k, c.getLsbD k = op (a.getLsbD k) (b.getLsbD k)

theorem bitwiseOf_or (a b : Byte) : BitwiseOf or a b (a ||| b) := fun _ => BitVec.getLsbD_or
theorem bitwiseOf_and (a b : Byte) : BitwiseOf and a b (a &&& b) := fun _ => BitVec.getLsbD_and
theorem bitwiseOf_xor (a b : Byte) : BitwiseOf xor a b (a ^^^ b) := fun _ => BitVec.getLsbD_xor

/-! ### The obligations -/

/-- Settles O31: both write `V[X]` alone, and the byte sum 7XNN stores is the sum modulo 256. -/
theorem loadAndAddImmediate : Obligations.LoadAndAddImmediate := by
  unfold Obligations.LoadAndAddImmediate
  intro x nn s
  constructor
  · exact State.writesOneRegister (P := (· = nn)) (exec_op6XNN x nn s) rfl
  · exact State.writesOneRegister (P := fun b => b.toNat = ((s.reg x).toNat + nn.toNat) % 256)
      (exec_op7XNN x nn s) (BitVec.toNat_add (s.reg x) nn)

/-- Settles O32: each of the four writes `V[X]` alone, and a bit of the byte written is the operation on the operands' bits. -/
theorem copyAndLogicWriteOneRegister : Obligations.CopyAndLogicWriteOneRegister := by
  unfold Obligations.CopyAndLogicWriteOneRegister
  intro x y s
  refine ⟨?copy, ?or, ?and, ?xor⟩
  case copy => exact State.writesOneRegister (P := (· = s.reg y)) (exec_op8XY0 x y s) rfl
  case or => exact State.writesOneRegister (P := BitwiseOf or _ _) (exec_op8XY1 x y s) (bitwiseOf_or (s.reg x) (s.reg y))
  case and => exact State.writesOneRegister (P := BitwiseOf and _ _) (exec_op8XY2 x y s) (bitwiseOf_and (s.reg x) (s.reg y))
  case xor => exact State.writesOneRegister (P := BitwiseOf xor _ _) (exec_op8XY3 x y s) (bitwiseOf_xor (s.reg x) (s.reg y))

end Sys2Proof.Machine
end

section
/-! PROOFS. The index load (43_index_memory.md R181): the meaning of ANNN, and what an index write followed by `pc + 2` changes. -/

namespace Sys2Proof.Machine

theorem exec_opANNN (nnn : Addr) (s : State) : exec (.opANNN nnn) s = .next (s.setIndex (addrWord nnn)).advance := rfl

theorem State.setIndex_advance_eq (s : State) (a : Word) : (s.setIndex a).advance = { s with i := a, pc := s.pc + 2 } := rfl

/-- Settles O37: ANNN writes `I` and advances, and extending the field to 16 bits keeps its value. -/
theorem loadIndexStoresTheAddress : Obligations.LoadIndexStoresTheAddress := by
  unfold Obligations.LoadIndexStoresTheAddress
  intro nnn s
  refine ⟨(s.setIndex (addrWord nnn)).advance, exec_opANNN nnn s, ?frame, ?index⟩
  case frame => rw [s.setIndex_advance_eq]
  case index => rw [State.advance_i, State.setIndex_i, toNat_addrWord]

end Sys2Proof.Machine
end

section
/-! PROOFS. The display clear (45_display.md R220): the meaning of 00E0, and what a display write followed by `pc + 2` changes. -/

namespace Sys2Proof.Machine

theorem exec_op00E0 (s : State) : exec .op00E0 s = .next (s.showDisplay clearDisplay).advance := rfl

theorem State.showDisplay_advance_eq (s : State) (d : Display) :
    (s.showDisplay d).advance = { s with disp := d, redraw := true, pc := s.pc + 2 } := rfl

/-- Settles O49: whatever the display was, 00E0 installs the clear one, which has no lit cell, and sets the redraw flag. -/
theorem clearDisplayClearsEveryCell : Obligations.ClearDisplayClearsEveryCell := by
  unfold Obligations.ClearDisplayClearsEveryCell
  intro s
  refine ⟨(s.showDisplay clearDisplay).advance, exec_op00E0 s, ?frame, ?cells⟩
  case frame => rw [s.showDisplay_advance_eq]
  case cells =>
    intro k _
    rw [State.advance_disp, State.showDisplay_disp, cellLit_clear]

end Sys2Proof.Machine
end

section
/-! PROOFS. Encoding (30_encoding.md R90 to R97): the round trip in both directions, and the decoder by fields against the masks of
the opcode map. The map is compared on rows: `(decode w).map Instr.row` is the row of the instruction a word decodes to. -/

namespace Sys2Proof

/-! ### The round trip -/

@[simp] theorem fieldN_formatRR (fam : BitVec 4) (x y : Reg) (n : Fin 16) :
    fieldN (formatRR fam x y (BitVec.ofFin n)) = n := by
  simp [fieldN]

/-- Settles O1: the instructions of a format are read back by the laws of that format's fields. -/
theorem decodeOfEncodeIsTheInstruction : Obligations.DecodeOfEncodeIsTheInstruction := by
  unfold Obligations.DecodeOfEncodeIsTheInstruction
  intro i
  cases i with
  | op00E0 | op00EE => rfl
  | op1NNN nnn | op2NNN nnn | opANNN nnn | opBNNN nnn => simp [encode, decode]
  | op3XNN x nn | op4XNN x nn | op6XNN x nn | op7XNN x nn | opCXNN x nn => simp [encode, decode]
  | op5XY0 x y | op9XY0 x y => simp [encode, decode]
  | op8XY0 x y | op8XY1 x y | op8XY2 x y | op8XY3 x y | op8XY4 x y | op8XY5 x y | op8XY6 x y | op8XY7 x y | op8XYE x y =>
    simp [encode, decode, decode8]
  | opDXYN x y n => simp [encode, decode]
  | opEX9E x | opEXA1 x => simp [encode, decode, decodeE]
  | opFX07 x | opFX0A x | opFX15 x | opFX18 x | opFX1E x | opFX29 x | opFX33 x | opFX55 x | opFX65 x =>
    simp [encode, decode, decodeF]

theorem formatA_of_family {w : Word} {fam : BitVec 4} (h : family w = fam) : formatA fam (fieldNNN w) = w := by
  rw [← h, formatA_fields]

theorem formatRI_of_family {w : Word} {fam : BitVec 4} (h : family w = fam) :
    formatRI fam (fieldX w) (fieldNN w) = w := by
  rw [← h, formatRI_fields]

theorem formatRI_of_operation {w : Word} {fam : BitVec 4} {op : Byte} (h : family w = fam) (hop : fieldNN w = op) :
    formatRI fam (fieldX w) op = w := by
  rw [← hop, formatRI_of_family h]

theorem formatRR_of_operation {w : Word} {fam n : BitVec 4} (h : family w = fam) (hn : lowNibble w = n) :
    formatRR fam (fieldX w) (fieldY w) n = w := by
  rw [← h, ← hn, formatRR_fields]

theorem ofFin_fieldN (w : Word) : BitVec.ofFin (fieldN w) = lowNibble w := by
  simp [fieldN]

theorem encode_of_decode0 {w : Word} {i : Instr} (h : decode0 w = some i) : encode i = w := by
  unfold decode0 at h
  split at h
  · next hw => cases h; exact hw.symm
  · split at h
    · next hw => cases h; exact hw.symm
    · cases h

theorem encode_of_decode8 {w : Word} {i : Instr} (hf : family w = 0x8#4) (h : decode8 w = some i) : encode i = w := by
  unfold decode8 at h
  split at h <;> cases h <;> exact formatRR_of_operation hf ‹_›

theorem encode_of_decodeE {w : Word} {i : Instr} (hf : family w = 0xE#4) (h : decodeE w = some i) : encode i = w := by
  unfold decodeE at h
  split at h <;> cases h <;> exact formatRI_of_operation hf ‹_›

theorem encode_of_decodeF {w : Word} {i : Instr} (hf : family w = 0xF#4) (h : decodeF w = some i) : encode i = w := by
  unfold decodeF at h
  split at h <;> cases h <;> exact formatRI_of_operation hf ‹_›

theorem encode_of_decode {w : Word} {i : Instr} (h : decode w = some i) : encode i = w := by
  unfold decode at h
  split at h
  case h_1 => exact encode_of_decode0 h
  case h_2 hf | h_3 hf | h_11 hf | h_12 hf => cases h; exact formatA_of_family hf
  case h_4 hf | h_5 hf | h_7 hf | h_8 hf | h_13 hf => cases h; exact formatRI_of_family hf
  case h_6 hf | h_10 hf =>
    split at h
    · next hn => cases h; exact formatRR_of_operation hf hn
    · cases h
  case h_9 hf => exact encode_of_decode8 hf h
  case h_14 hf => cases h; exact formatRR_of_operation hf (ofFin_fieldN w).symm
  case h_15 hf => exact encode_of_decodeE hf h
  case h_16 =>
    refine encode_of_decodeF (family_last _ fun n hn => ?_) h
    interval_cases n <;> assumption

/-- Settles O2: the decoder's branch fixes the fields the format does not carry over, and a word is its format's fields. -/
theorem encodeOfDecodedWordIsTheWord : Obligations.EncodeOfDecodedWordIsTheWord := by
  unfold Obligations.EncodeOfDecodedWordIsTheWord
  intro w i h
  exact encode_of_decode h

/-! ### The masks of the opcode map -/

/-- The word of an instruction shows the fixed digits of its row (R94, R96). -/
theorem encode_and_mask (i : Instr) : encode i &&& i.row.mask = i.row.bits := by
  cases i
  case op00E0 => exact Laws.FixedDigits.op00E0
  case op00EE => exact Laws.FixedDigits.op00EE
  case op1NNN => exact Laws.FixedDigits.op1NNN _
  case op2NNN => exact Laws.FixedDigits.op2NNN _
  case op3XNN => exact Laws.FixedDigits.op3XNN _ _
  case op4XNN => exact Laws.FixedDigits.op4XNN _ _
  case op5XY0 => exact Laws.FixedDigits.op5XY0 _ _
  case op6XNN => exact Laws.FixedDigits.op6XNN _ _
  case op7XNN => exact Laws.FixedDigits.op7XNN _ _
  case op8XY0 => exact Laws.FixedDigits.op8XY0 _ _
  case op8XY1 => exact Laws.FixedDigits.op8XY1 _ _
  case op8XY2 => exact Laws.FixedDigits.op8XY2 _ _
  case op8XY3 => exact Laws.FixedDigits.op8XY3 _ _
  case op8XY4 => exact Laws.FixedDigits.op8XY4 _ _
  case op8XY5 => exact Laws.FixedDigits.op8XY5 _ _
  case op8XY6 => exact Laws.FixedDigits.op8XY6 _ _
  case op8XY7 => exact Laws.FixedDigits.op8XY7 _ _
  case op8XYE => exact Laws.FixedDigits.op8XYE _ _
  case op9XY0 => exact Laws.FixedDigits.op9XY0 _ _
  case opANNN => exact Laws.FixedDigits.opANNN _
  case opBNNN => exact Laws.FixedDigits.opBNNN _
  case opCXNN => exact Laws.FixedDigits.opCXNN _ _
  case opDXYN => exact Laws.FixedDigits.opDXYN _ _ _
  case opEX9E => exact Laws.FixedDigits.opEX9E _
  case opEXA1 => exact Laws.FixedDigits.opEXA1 _
  case opFX07 => exact Laws.FixedDigits.opFX07 _
  case opFX0A => exact Laws.FixedDigits.opFX0A _
  case opFX15 => exact Laws.FixedDigits.opFX15 _
  case opFX18 => exact Laws.FixedDigits.opFX18 _
  case opFX1E => exact Laws.FixedDigits.opFX1E _
  case opFX29 => exact Laws.FixedDigits.opFX29 _
  case opFX33 => exact Laws.FixedDigits.opFX33 _
  case opFX55 => exact Laws.FixedDigits.opFX55 _
  case opFX65 => exact Laws.FixedDigits.opFX65 _

theorem family_eq_of_mask {w v : Word} (h : w &&& 0xF000#16 = v &&& 0xF000#16) : family w = family v := by
  have hw := Laws.FixedDigits.formatA_mask (family w) (fieldNNN w)
  have hv := Laws.FixedDigits.formatA_mask (family v) (fieldNNN v)
  rw [formatA_fields] at hw hv
  simpa using congrArg family (hw.symm.trans (h.trans hv))

theorem fields_eq_of_maskRR {w v : Word} (h : w &&& 0xF00F#16 = v &&& 0xF00F#16) :
    family w = family v ∧ lowNibble w = lowNibble v := by
  have hw := Laws.FixedDigits.formatRR_mask (family w) (fieldX w) (fieldY w) (lowNibble w)
  have hv := Laws.FixedDigits.formatRR_mask (family v) (fieldX v) (fieldY v) (lowNibble v)
  rw [formatRR_fields] at hw hv
  have heq := hw.symm.trans (h.trans hv)
  exact ⟨by simpa using congrArg family heq, by simpa using congrArg lowNibble heq⟩

theorem fields_eq_of_maskR {w v : Word} (h : w &&& 0xF0FF#16 = v &&& 0xF0FF#16) :
    family w = family v ∧ fieldNN w = fieldNN v := by
  have hw := Laws.FixedDigits.formatR_mask (family w) (fieldX w) (fieldNN w)
  have hv := Laws.FixedDigits.formatR_mask (family v) (fieldX v) (fieldNN v)
  rw [formatRI_fields] at hw hv
  have heq := hw.symm.trans (h.trans hv)
  exact ⟨by simpa using congrArg family heq, by simpa using congrArg fieldNN heq⟩

/-- A word that shows the fixed digits of a row decodes to an instruction of that row: under the row's mask it agrees with the word
of the row's own instruction, so in the fields the decoder looks at. -/
theorem row_decode_of_mask {w : Word} (i : Instr) (h : w &&& i.row.mask = i.row.bits) :
    (decode w).map Instr.row = some i.row := by
  have he : w &&& i.row.mask = encode i &&& i.row.mask := h.trans (encode_and_mask i).symm
  cases i with
  | op00E0 | op00EE =>
    have hw : w = _ := BitVec.and_allOnes.symm.trans h
    rw [hw]; rfl
  | op1NNN nnn | op2NNN nnn | opANNN nnn | opBNNN nnn =>
    have hf := family_eq_of_mask he
    simp only [encode, family_formatA] at hf
    simp [decode, hf, Instr.row]
  | op3XNN x nn | op4XNN x nn | op6XNN x nn | op7XNN x nn | opCXNN x nn =>
    have hf := family_eq_of_mask he
    simp only [encode, family_formatRI] at hf
    simp [decode, hf, Instr.row]
  | opDXYN x y n =>
    have hf := family_eq_of_mask he
    simp only [encode, family_formatRR] at hf
    simp [decode, hf, Instr.row]
  | op5XY0 x y | op9XY0 x y =>
    obtain ⟨hf, hn⟩ := fields_eq_of_maskRR he
    simp only [encode, family_formatRR, lowNibble_formatRR] at hf hn
    simp [decode, hf, hn, Instr.row]
  | op8XY0 x y | op8XY1 x y | op8XY2 x y | op8XY3 x y | op8XY4 x y | op8XY5 x y | op8XY6 x y | op8XY7 x y | op8XYE x y =>
    obtain ⟨hf, hn⟩ := fields_eq_of_maskRR he
    simp only [encode, family_formatRR, lowNibble_formatRR] at hf hn
    simp [decode, decode8, hf, hn, Instr.row]
  | opEX9E x | opEXA1 x =>
    obtain ⟨hf, hop⟩ := fields_eq_of_maskR he
    simp only [encode, family_formatRI, fieldNN_formatRI] at hf hop
    simp [decode, decodeE, hf, hop, Instr.row]
  | opFX07 x | opFX0A x | opFX15 x | opFX18 x | opFX1E x | opFX29 x | opFX33 x | opFX55 x | opFX65 x =>
    obtain ⟨hf, hop⟩ := fields_eq_of_maskR he
    simp only [encode, family_formatRI, fieldNN_formatRI] at hf hop
    simp [decode, decodeF, hf, hop, Instr.row]

/-- One instruction a row of the opcode map, in its order. -/
def rowSamples : List Instr :=
  [.op00E0, .op00EE, .op1NNN 0, .op2NNN 0, .op3XNN 0 0, .op4XNN 0 0, .op5XY0 0 0, .op6XNN 0 0, .op7XNN 0 0,
   .op8XY0 0 0, .op8XY1 0 0, .op8XY2 0 0, .op8XY3 0 0, .op8XY4 0 0, .op8XY5 0 0, .op8XY6 0 0, .op8XY7 0 0, .op8XYE 0 0,
   .op9XY0 0 0, .opANNN 0, .opBNNN 0, .opCXNN 0 0, .opDXYN 0 0 0, .opEX9E 0, .opEXA1 0,
   .opFX07 0, .opFX0A 0, .opFX15 0, .opFX18 0, .opFX1E 0, .opFX29 0, .opFX33 0, .opFX55 0, .opFX65 0]

theorem opcodeRows_eq_map : opcodeRows = rowSamples.map Instr.row := rfl

theorem exists_row_of_mem {r : OpcodeRow} (hr : r ∈ opcodeRows) : ∃ i : Instr, i.row = r := by
  rw [opcodeRows_eq_map] at hr
  obtain ⟨i, -, hi⟩ := List.mem_map.mp hr
  exact ⟨i, hi⟩

theorem row_mem_opcodeRows (i : Instr) : i.row ∈ opcodeRows := by
  cases i <;> simp [Instr.row, opcodeRows, opcodeRowsLow, opcodeRowsMid, opcodeRowsHigh]

/-- A row of the map matches exactly the words that decode to an instruction of that row. -/
theorem mask_iff_decode {r : OpcodeRow} (hr : r ∈ opcodeRows) (w : Word) :
    w &&& r.mask = r.bits ↔ ∃ i, decode w = some i ∧ i.row = r := by
  constructor
  · intro hw
    obtain ⟨i, rfl⟩ := exists_row_of_mem hr
    exact Option.map_eq_some_iff.mp (row_decode_of_mask i hw)
  · rintro ⟨i, hi, rfl⟩
    rw [← encode_of_decode hi]
    exact encode_and_mask i

theorem wordLegal_iff (w : Word) : wordLegal w = true ↔ ∃ i, decode w = some i := by
  simp only [wordLegal, List.any_eq_true, OpcodeRow.accepts, beq_iff_eq]
  constructor
  · rintro ⟨r, hr, hw⟩
    obtain ⟨i, hi, -⟩ := (mask_iff_decode hr w).mp hw
    exact ⟨i, hi⟩
  · rintro ⟨i, hi⟩
    exact ⟨i.row, row_mem_opcodeRows i, (mask_iff_decode (row_mem_opcodeRows i) w).mpr ⟨i, hi, rfl⟩⟩

theorem decode_none_iff (w : Word) : decode w = none ↔ wordLegal w = false := by
  rw [← Bool.not_eq_true, wordLegal_iff, Option.eq_none_iff_forall_ne_some, not_exists]

/-- Settles O3: a row matches the words that decode into it, and every instruction has its row in the map. -/
theorem decodeAgreesWithTheOpcodeMap : Obligations.DecodeAgreesWithTheOpcodeMap := by
  unfold Obligations.DecodeAgreesWithTheOpcodeMap
  intro w
  exact ⟨fun _ hr => mask_iff_decode hr w, decode_none_iff w⟩

/-- Settles O4: two rows that match a word are both the row of the one instruction it decodes to. -/
theorem opcodeRowsAreDisjoint : Obligations.OpcodeRowsAreDisjoint := by
  unfold Obligations.OpcodeRowsAreDisjoint
  intro w r hr q hq hwr hwq
  obtain ⟨i, hi, rfl⟩ := (mask_iff_decode hr w).mp hwr
  obtain ⟨j, hj, rfl⟩ := (mask_iff_decode hq w).mp hwq
  rw [Option.some.inj (hi.symm.trans hj)]

/-- Settles O5: the words written out are closed terms, decoded by evaluation. -/
theorem sampleWordsDecodeAsPrinted : Obligations.SampleWordsDecodeAsPrinted := by
  unfold Obligations.SampleWordsDecodeAsPrinted
  decide

end Sys2Proof
end

section
/-! PROOFS. The meanings of the instructions not given above, one equation each (40_step_cycle.md R123), and for the call, the
return and the key wait one equation a case. -/

namespace Sys2Proof.Machine

/-! ### Control transfer (41_control_flow.md R141, R143, R148) -/

theorem exec_opBNNN (nnn : Addr) (s : State) : exec (.opBNNN nnn) s = .next (s.jump (offsetTarget nnn (s.reg 0))) := rfl

theorem exec_op2NNN_of_lt (nnn : Addr) {s : State} (h : s.sp.val < 16) :
    exec (.op2NNN nnn) s =
      .next { s with stack := s.stack.set s.sp.val s.pc, sp := ⟨s.sp.val + 1, by omega⟩, pc := addrWord nnn } := by
  simp only [exec, exec2NNN, s.push?_of_lt s.pc h]; rfl

theorem exec_op2NNN_full (nnn : Addr) {s : State} (h : s.sp.val = 16) :
    exec (.op2NNN nnn) s = .next (s.raise .stackOverflow (encode (.op2NNN nnn))) := by
  simp only [exec, exec2NNN, s.push?_full s.pc h]

/-- A stack that is not empty has a last saved entry. -/
theorem State.exists_saved (s : State) (h : ¬ s.sp.val = 0) : ∃ k : Fin 16, s.sp.val = k.val + 1 := by
  have hlt := s.sp.isLt
  refine ⟨⟨s.sp.val - 1, by omega⟩, ?_⟩
  simp only
  omega

theorem exec_op00EE_of_saved {s : State} (k : Fin 16) (h : s.sp.val = k.val + 1) :
    exec .op00EE s = .next { s with sp := k.castSucc, pc := s.stack[k.val] + 2 } := by
  have hsp : s.sp.val - 1 = k.val := by omega
  simp only [exec, exec00EE, s.pop?_of_pos (by omega : 0 < s.sp.val), hsp]; rfl

theorem exec_op00EE_empty {s : State} (h : s.sp.val = 0) :
    exec .op00EE s = .next (s.raise .stackUnderflow (encode .op00EE)) := by
  simp only [exec, exec00EE, s.pop?_empty h]

/-! ### Flag arithmetic (42_register_alu.md R167 to R171) -/

theorem exec_op8XY4 (x y : Reg) (s : State) : exec (.op8XY4 x y) s =
    .next (s.flagThenReg (carryFlag (s.reg x) (s.reg y)) x fun t => t.reg x + t.reg y).advance := rfl
theorem exec_op8XY5 (x y : Reg) (s : State) : exec (.op8XY5 x y) s =
    .next (s.flagThenReg (greaterFlag (s.reg x) (s.reg y)) x fun t => t.reg x - t.reg y).advance := rfl
theorem exec_op8XY6 (x y : Reg) (s : State) : exec (.op8XY6 x y) s =
    .next (s.flagThenReg (shiftRightFlag (s.reg x)) x fun t => t.reg x >>> 1).advance := rfl
theorem exec_op8XY7 (x y : Reg) (s : State) : exec (.op8XY7 x y) s =
    .next (s.flagThenReg (notGreaterFlag (s.reg x) (s.reg y)) x fun t => t.reg y - t.reg x).advance := rfl
theorem exec_op8XYE (x y : Reg) (s : State) : exec (.op8XYE x y) s =
    .next (s.flagThenReg (shiftLeftFlag (s.reg x)) x fun t => t.reg x <<< 1).advance := rfl

/-! ### Index, memory and sprites (43_index_memory.md R182 to R186, 45_display.md R221) -/

theorem exec_opFX1E (x : Reg) (s : State) : exec (.opFX1E x) s = .next (s.setIndex (indexPlus s.i (s.reg x))).advance := rfl
theorem exec_opFX29 (x : Reg) (s : State) : exec (.opFX29 x) s = .next (s.setIndex (glyphAddress (s.reg x))).advance := rfl
theorem exec_opFX33 (x : Reg) (s : State) : exec (.opFX33 x) s =
    checked (rangeOk s 2) .outOfBoundsAccess (.opFX33 x) s (s.storeBytes s.i.toNat (bcdDigits (s.reg x))).advance := rfl
theorem exec_opFX55 (x : Reg) (s : State) : exec (.opFX55 x) s = checked (rangeOk s x.val) .outOfBoundsAccess (.opFX55 x) s
    ((s.storeBytes s.i.toNat (regBlock s x)).setIndex (indexPast s.i x)).advance := rfl
theorem exec_opFX65 (x : Reg) (s : State) : exec (.opFX65 x) s = checked (rangeOk s x.val) .outOfBoundsAccess (.opFX65 x) s
    ((s.loadBlock x).setIndex (indexPast s.i x)).advance := rfl
theorem exec_opDXYN (x y : Reg) (n : Fin 16) (s : State) : exec (.opDXYN x y n) s =
    checked (spriteOk s n.val) .outOfBoundsAccess (.opDXYN x y n) s
      ((s.setReg vf (flagByte (s.sprite x y n.val).2)).showDisplay (s.sprite x y n.val).1).advance := rfl

theorem exec_opFX33_of_le (x : Reg) {s : State} (h : s.i.toNat + 2 ≤ 4095) :
    exec (.opFX33 x) s = .next (s.storeBytes s.i.toNat (bcdDigits (s.reg x))).advance := by
  rw [exec_opFX33, (rangeOk_iff s 2).mpr h, checked_true]

theorem exec_opFX55_of_le {x : Reg} {s : State} (h : s.i.toNat + x.val ≤ 4095) :
    exec (.opFX55 x) s = .next ((s.storeBytes s.i.toNat (regBlock s x)).setIndex (indexPast s.i x)).advance := by
  rw [exec_opFX55, (rangeOk_iff s x.val).mpr h, checked_true]

theorem exec_opFX65_of_le {x : Reg} {s : State} (h : s.i.toNat + x.val ≤ 4095) :
    exec (.opFX65 x) s = .next ((s.loadBlock x).setIndex (indexPast s.i x)).advance := by
  rw [exec_opFX65, (rangeOk_iff s x.val).mpr h, checked_true]

theorem exec_opDXYN_of_le (x y : Reg) {n : Fin 16} {s : State} (h : n.val = 0 ∨ s.i.toNat + n.val - 1 ≤ 4095) :
    exec (.opDXYN x y n) s =
      .next ((s.setReg vf (flagByte (s.sprite x y n.val).2)).showDisplay (s.sprite x y n.val).1).advance := by
  rw [exec_opDXYN, (spriteOk_iff s n.val).mpr h, checked_true]

/-! ### Random, keys, timers (44_random_keys_timers.md R200 to R206) -/

theorem exec_opCXNN (x : Reg) (nn : Byte) (s : State) :
    exec (.opCXNN x nn) s = .next (s.drawInto (Config.randomByte s.draws) x nn).advance := rfl
theorem execDraw_opCXNN (rnd : Byte) (x : Reg) (nn : Byte) (s : State) :
    execDraw rnd (.opCXNN x nn) s = .next (s.drawInto rnd x nn).advance := rfl
theorem exec_opEX9E (x : Reg) (s : State) : exec (.opEX9E x) s =
    checked (keyCodeOk (s.reg x)) .invalidKeyIndex (.opEX9E x) s (s.skipIf (s.keyDown (s.reg x).toNat)) := rfl
theorem exec_opEXA1 (x : Reg) (s : State) : exec (.opEXA1 x) s =
    checked (keyCodeOk (s.reg x)) .invalidKeyIndex (.opEXA1 x) s (s.skipIf (!s.keyDown (s.reg x).toNat)) := rfl

theorem exec_opEX9E_of_le {x : Reg} {s : State} (h : (s.reg x).toNat ≤ 15) :
    exec (.opEX9E x) s = .next (s.skipIf (s.keyDown (s.reg x).toNat)) := by
  rw [exec_opEX9E, (keyCodeOk_iff (s.reg x)).mpr h, checked_true]

theorem exec_opEXA1_of_le {x : Reg} {s : State} (h : (s.reg x).toNat ≤ 15) :
    exec (.opEXA1 x) s = .next (s.skipIf (!s.keyDown (s.reg x).toNat)) := by
  rw [exec_opEXA1, (keyCodeOk_iff (s.reg x)).mpr h, checked_true]

theorem exec_opFX07 (x : Reg) (s : State) : exec (.opFX07 x) s = .next (s.setReg x s.dt).advance := rfl
theorem exec_opFX15 (x : Reg) (s : State) : exec (.opFX15 x) s = .next (s.setDelay (s.reg x)).advance := rfl
theorem exec_opFX18 (x : Reg) (s : State) : exec (.opFX18 x) s = .next (s.setSound (s.reg x)).advance := rfl

theorem exec_opFX0A_key (x : Reg) {s : State} {k : Nat} (h : s.lowestKey = some k) :
    exec (.opFX0A x) s = .next (s.setReg x (BitVec.ofNat 8 k)).resume.advance := by
  simp only [exec, execFX0A, h]

theorem exec_opFX0A_blocked (x : Reg) {s : State} (h : s.lowestKey = none) : exec (.opFX0A x) s = .next s.await := by
  simp only [exec, execFX0A, h]

/-- No key is down exactly when the scan finds none. -/
theorem State.lowestKey_eq_none_iff (s : State) : s.lowestKey = none ↔ ∀ k, k < 16 → s.key.getLsbD k = false := by
  simp [State.lowestKey, State.keyDown]

/-- The scan finds a key that is down below which none is. -/
theorem State.lowestKey_eq_some {s : State} {k : Nat} (hk : k < 16) (hdown : s.key.getLsbD k = true)
    (hlow : ∀ j, j < k → s.key.getLsbD j = false) : s.lowestKey = some k := by
  rw [State.lowestKey, List.find?_range_eq_some]
  exact ⟨hdown, List.mem_range.mpr hk, fun j hj => by simp [State.keyDown, hlow j hj]⟩

theorem State.lowestKey_eq_none_iff_key (s : State) : s.lowestKey = none ↔ s.key = 0 := by
  rw [s.lowestKey_eq_none_iff]
  constructor
  · intro h
    exact BitVec.eq_of_getLsbD_eq fun k hk => by simpa using h k hk
  · intro h k _
    simp [h]

end Sys2Proof.Machine
end

section
/-! PROOFS. What an instruction can do, whichever it is (40_step_cycle.md R123, 60_exceptions.md R230, R240): it raises the error
its one check reads off the state, or it completes, and then `Completed` says field by field what it leaves. -/

namespace Sys2Proof.Machine

/-! ### The error of an instruction -/

/-- An instruction whose check fails takes that error and changes nothing else. -/
theorem exec_of_instrError {i : Instr} {s : State} (h : instrError i s ≠ .none) :
    exec i s = .next (s.raise (instrError i s) (encode i)) := by
  cases i with
  | op00EE =>
    have hc := (ite_ne_right_iff.mp h).1
    rw [exec_op00EE_empty hc, instrError, if_pos hc]
  | op2NNN nnn =>
    have hc := (ite_ne_right_iff.mp h).1
    rw [exec_op2NNN_full nnn hc, instrError, if_pos hc]
  | opDXYN x y n =>
    have hc := (ite_ne_right_iff.mp h).1
    rw [exec_opDXYN, (spriteOk_false_iff s n.val).mpr hc, checked_false, instrError, if_pos hc]
  | opFX33 x =>
    have hc := (ite_ne_right_iff.mp h).1
    rw [exec_opFX33, (rangeOk_false_iff s 2).mpr hc, checked_false, instrError, if_pos hc]
  | opFX55 x =>
    have hc := (ite_ne_right_iff.mp h).1
    rw [exec_opFX55, (rangeOk_false_iff s x.val).mpr hc, checked_false, instrError, if_pos hc]
  | opFX65 x =>
    have hc := (ite_ne_right_iff.mp h).1
    rw [exec_opFX65, (rangeOk_false_iff s x.val).mpr hc, checked_false, instrError, if_pos hc]
  | opEX9E x =>
    have hc := (ite_ne_right_iff.mp h).1
    rw [exec_opEX9E, (keyCodeOk_false_iff (s.reg x)).mpr hc, checked_false, instrError, if_pos hc]
  | opEXA1 x =>
    have hc := (ite_ne_right_iff.mp h).1
    rw [exec_opEXA1, (keyCodeOk_false_iff (s.reg x)).mpr hc, checked_false, instrError, if_pos hc]
  | _ => exact absurd rfl h

/-- The same for a known error, with the next state written out. -/
theorem exec_raises {i : Instr} {s : State} {k : ErrKind} (h : instrError i s = k) (hk : k ≠ .none) :
    exec i s = .next { s with run := .halted, err := ⟨k, s.pc, encode i⟩ } := by
  subst h
  exact exec_of_instrError hk

/-- The check of an instruction does not look at `run`. -/
@[simp] theorem instrError_resume (i : Instr) (s : State) : instrError i s.resume = instrError i s := by
  cases i <;> rfl

/-! ### The fields after an instruction that completes -/

/-- `run` after an instruction that completes (R127, R204). -/
def runAfter (i : Instr) (s : State) : RunState :=
  match i with
  | .opFX0A _ => if s.key = 0 then .awaitingKey else .running
  | _ => .running

/-- `DT` after an instruction, before the post-step: FX15 writes it (R205). -/
def delayAfter (i : Instr) (s : State) : Byte :=
  match i with
  | .opFX15 x => s.reg x
  | _ => s.dt

/-- `ST` after an instruction, before the post-step: FX18 writes it (R206). -/
def soundAfter (i : Instr) (s : State) : Byte :=
  match i with
  | .opFX18 x => s.reg x
  | _ => s.st

theorem runAfter_of_ne {i : Instr} {s : State} (h : ∀ x, i ≠ .opFX0A x) : runAfter i s = .running := by
  cases i with
  | opFX0A x => exact absurd rfl (h x)
  | _ => rfl

theorem delayAfter_of_ne {i : Instr} {s : State} (h : ∀ x, i ≠ .opFX15 x) : delayAfter i s = s.dt := by
  cases i with
  | opFX15 x => exact absurd rfl (h x)
  | _ => rfl

theorem soundAfter_of_ne {i : Instr} {s : State} (h : ∀ x, i ≠ .opFX18 x) : soundAfter i s = s.st := by
  cases i with
  | opFX18 x => exact absurd rfl (h x)
  | _ => rfl

/-- The bytes an instruction stores from `I` up: FX33 and FX55 (R184, R185). -/
def storedBytes (i : Instr) (s : State) : List Byte :=
  match i with
  | .opFX33 x => bcdDigits (s.reg x)
  | .opFX55 x => regBlock s x
  | _ => []

@[simp] theorem storedBytes_resume (i : Instr) (s : State) : storedBytes i s.resume = storedBytes i s := by
  cases i <;> rfl

/-- 00E0 and DXYN: the instructions that show a display (R35). -/
def showsDisplay : Instr → Bool
  | .op00E0 => true
  | .opDXYN _ _ _ => true
  | _ => false

/-- How `pc` and the call stack move in an instruction that completes (R124, R141 to R148). -/
inductive Flow (s t : State) : Prop
  | near (hstack : t.stack = s.stack) (hsp : t.sp = s.sp) (hpc : t.pc = s.pc ∨ t.pc = s.pc + 2 ∨ t.pc = s.pc + 4)
  | jump (hstack : t.stack = s.stack) (hsp : t.sp = s.sp) (nnn : Addr) (hpc : t.pc = addrWord nnn)
  | offset (hstack : t.stack = s.stack) (hsp : t.sp = s.sp) (nnn : Addr) (b : Byte) (hpc : t.pc = offsetTarget nnn b)
  | call (hfree : s.sp.val < 16) (hstack : t.stack = s.stack.set s.sp.val s.pc) (hsp : t.sp.val = s.sp.val + 1)
      (nnn : Addr) (hpc : t.pc = addrWord nnn)
  | ret (k : Fin 16) (hsaved : s.sp.val = k.val + 1) (hstack : t.stack = s.stack) (hsp : t.sp.val = k.val)
      (hpc : t.pc = s.stack[k.val] + 2)

/-- What every instruction that completes leaves, started from a Running state `s`. Most fields hold by unfolding
the meaning of the instruction; a proof gives the others. -/
structure Completed (i : Instr) (s t : State) : Prop where
  err : t.err = s.err := by rfl
  key : t.key = s.key := by rfl
  run : t.run = runAfter i s
  delay : t.dt = delayAfter i s := by rfl
  sound : t.st = soundAfter i s := by rfl
  mem : t.mem = s.mem.writeList s.i.toNat (storedBytes i s) := by rfl
  redraw : t.redraw = (showsDisplay i || s.redraw) := by rfl
  disp : showsDisplay i = true ∨ t.disp = s.disp := by exact .inr rfl
  flow : Flow s t

theorem flow_advance {s t : State} (hstack : t.stack = s.stack) (hsp : t.sp = s.sp) (hpc : t.pc = s.pc) :
    Flow s t.advance :=
  .near hstack hsp (.inr (.inl (congrArg (· + 2) hpc)))

theorem flow_skipIf (s : State) (c : Bool) : Flow s (s.skipIf c) := by
  cases c
  · exact .near rfl rfl (.inr (.inl rfl))
  · exact .near rfl rfl (.inr (.inr rfl))

/-- A check that answers no error has not failed. -/
theorem not_of_ite_eq {c : Prop} [Decidable c] {k : ErrKind} (h : (if c then k else .none) = ErrKind.none)
    (hk : k ≠ .none := by decide) : ¬ c := fun hc => hk (by rwa [if_pos hc] at h)

theorem exec_completes {i : Instr} {s : State} (hrun : s.run = .running) (h : instrError i s = .none) :
    ∃ t, exec i s = .next t ∧ Completed i s t := by
  cases i with
  | op00E0 => exact ⟨_, rfl, { run := hrun, disp := .inl rfl, flow := flow_advance rfl rfl rfl }⟩
  | op1NNN nnn => exact ⟨_, rfl, { run := hrun, flow := .jump rfl rfl nnn rfl }⟩
  | opBNNN nnn => exact ⟨_, rfl, { run := hrun, flow := .offset rfl rfl nnn (s.reg 0) rfl }⟩
  | op3XNN _ _ | op4XNN _ _ | op5XY0 _ _ | op9XY0 _ _ => exact ⟨_, rfl, { run := hrun, flow := flow_skipIf s _ }⟩
  | op6XNN _ _ | op7XNN _ _ | opCXNN _ _ | opFX07 _ => exact ⟨_, rfl, { run := hrun, flow := flow_advance rfl rfl rfl }⟩
  | op8XY0 _ _ | op8XY1 _ _ | op8XY2 _ _ | op8XY3 _ _ | op8XY4 _ _ | op8XY5 _ _ | op8XY6 _ _ | op8XY7 _ _ | op8XYE _ _ =>
    exact ⟨_, rfl, { run := hrun, flow := flow_advance rfl rfl rfl }⟩
  | opANNN _ | opFX1E _ | opFX29 _ | opFX15 _ | opFX18 _ =>
    exact ⟨_, rfl, { run := hrun, flow := flow_advance rfl rfl rfl }⟩
  | op00EE =>
    have hsp : ¬ s.sp.val = 0 := not_of_ite_eq h
    obtain ⟨k, hk⟩ := s.exists_saved hsp
    exact ⟨_, exec_op00EE_of_saved k hk, { run := hrun, flow := .ret k hk rfl rfl rfl }⟩
  | op2NNN nnn =>
    have hsp : ¬ s.sp.val = 16 := not_of_ite_eq h
    have hlt := s.sp.isLt
    have hfree : s.sp.val < 16 := by omega
    exact ⟨_, exec_op2NNN_of_lt nnn hfree, { run := hrun, flow := .call hfree rfl rfl nnn rfl }⟩
  | opFX0A x =>
    cases hk : s.lowestKey with
    | none =>
      have hrun' : runAfter (.opFX0A x) s = .awaitingKey := if_pos (s.lowestKey_eq_none_iff_key.mp hk)
      exact ⟨_, exec_opFX0A_blocked x hk, { run := hrun'.symm, flow := .near rfl rfl (.inl rfl) }⟩
    | some k =>
      have hkey : s.key ≠ 0 := fun h0 => by simp [s.lowestKey_eq_none_iff_key.mpr h0] at hk
      have hrun' : runAfter (.opFX0A x) s = .running := if_neg hkey
      exact ⟨_, exec_opFX0A_key x hk, { run := hrun'.symm, flow := flow_advance rfl rfl rfl }⟩
  | opDXYN x y n =>
    have hle : n.val = 0 ∨ s.i.toNat + n.val - 1 ≤ 4095 := by have hc := not_of_ite_eq h; omega
    exact ⟨_, exec_opDXYN_of_le x y hle, { run := hrun, disp := .inl rfl, flow := flow_advance rfl rfl rfl }⟩
  | opEX9E x =>
    have hle := Nat.not_lt.mp (not_of_ite_eq h)
    exact ⟨_, exec_opEX9E_of_le hle, { run := hrun, flow := flow_skipIf s _ }⟩
  | opEXA1 x =>
    have hle := Nat.not_lt.mp (not_of_ite_eq h)
    exact ⟨_, exec_opEXA1_of_le hle, { run := hrun, flow := flow_skipIf s _ }⟩
  | opFX33 x =>
    have hle := Nat.not_lt.mp (not_of_ite_eq h)
    exact ⟨_, exec_opFX33_of_le x hle, { run := hrun, flow := flow_advance rfl rfl rfl }⟩
  | opFX55 x =>
    have hle := Nat.not_lt.mp (not_of_ite_eq h)
    exact ⟨_, exec_opFX55_of_le hle, { run := hrun, flow := flow_advance rfl rfl rfl }⟩
  | opFX65 x =>
    have hle := Nat.not_lt.mp (not_of_ite_eq h)
    exact ⟨_, exec_opFX65_of_le hle, { run := hrun, flow := flow_advance rfl rfl rfl }⟩

end Sys2Proof.Machine
end

section
/-! PROOFS. What a step can do (40_step_cycle.md R120): one equation a case of the cycle, and `stepWith_cases`, from which every
rule about steps follows: nothing while Halted, or the error read off the state, or an instruction that completes and the post-step. -/

namespace Sys2Proof.Machine

/-! ### The cycle, case by case -/

theorem cycle_halted (ex : Instr → State → Answer) {s : State} (h : s.run = .halted) : cycle ex s = .next s := by
  rw [cycle, h]

theorem cycle_of_fetch_none (ex : Instr → State → Answer) {s : State} (hr : s.run ≠ .halted) (hf : s.fetch = none) :
    cycle ex s = .next (s.raise .outOfBoundsFetch 0) := by
  cases hs : s.run with
  | halted => exact absurd hs hr
  | running | awaitingKey => simp only [cycle, hs, hf]

theorem cycle_of_decode_none (ex : Instr → State → Answer) {s : State} {w : Word} (hr : s.run ≠ .halted)
    (hf : s.fetch = some w) (hd : decode w = none) : cycle ex s = .next (s.raise .unsupportedOpcode w) := by
  cases hs : s.run with
  | halted => exact absurd hs hr
  | running | awaitingKey => simp only [cycle, hs, hf, hd]

theorem cycle_of_executes (ex : Instr → State → Answer) {s : State} {i : Instr} (h : Executes s i) :
    cycle ex s = settleAnswer (ex i s.resume) := by
  obtain ⟨hr, w, hf, hd⟩ := h
  cases hs : s.run with
  | halted => exact absurd hs hr
  | running | awaitingKey => simp only [cycle, hs, hf, hd]

/-- A step that executes an instruction executes one only. -/
theorem Executes.unique {s : State} {i j : Instr} (hi : Executes s i) (hj : Executes s j) : i = j := by
  obtain ⟨-, w, hf, hd⟩ := hi
  obtain ⟨-, w', hf', hd'⟩ := hj
  obtain rfl : w = w' := Option.some.inj (hf.symm.trans hf')
  exact Option.some.inj (hd.symm.trans hd')

/-- Where a step starts: Halted, at a failing fetch, at an unsupported word, or at an instruction. -/
theorem start_cases (s : State) :
    s.run = .halted ∨ (s.run ≠ .halted ∧ s.fetch = none) ∨
      (∃ w, s.run ≠ .halted ∧ s.fetch = some w ∧ decode w = none) ∨ ∃ i, Executes s i := by
  by_cases hr : s.run = .halted
  · exact .inl hr
  cases hf : s.fetch with
  | none => exact .inr (.inl ⟨hr, rfl⟩)
  | some w =>
    cases hd : decode w with
    | none => exact .inr (.inr (.inl ⟨w, hr, rfl, hd⟩))
    | some i => exact .inr (.inr (.inr ⟨i, hr, w, hf, hd⟩))

/-- Two meanings that agree on the instruction executed give the same step. -/
theorem cycle_congr {ex ex' : Instr → State → Answer} {s : State}
    (h : ∀ i, Executes s i → ex i s.resume = ex' i s.resume) : cycle ex s = cycle ex' s := by
  obtain hr | ⟨hr, hf⟩ | ⟨w, hr, hf, hd⟩ | ⟨i, hi⟩ := start_cases s
  · rw [cycle_halted ex hr, cycle_halted ex' hr]
  · rw [cycle_of_fetch_none ex hr hf, cycle_of_fetch_none ex' hr hf]
  · rw [cycle_of_decode_none ex hr hf hd, cycle_of_decode_none ex' hr hf hd]
  · rw [cycle_of_executes ex hi, cycle_of_executes ex' hi, h i hi]

/-! ### The fetch and the error of a step, read off the state (R121, 60_exceptions.md R238) -/

theorem State.fetch_of_ge {s : State} (h : 4096 ≤ s.pc.toNat + 1) : s.fetch = none := if_pos h

theorem wordOfBytes_eq_wordAtPc (s : State) :
    wordOfBytes (s.mem.read s.pc.toNat) (s.mem.read (s.pc.toNat + 1)) = wordAtPc s := by
  apply BitVec.eq_of_toNat_eq
  have hhi := (s.mem.read s.pc.toNat).isLt
  have hlo := (s.mem.read (s.pc.toNat + 1)).isLt
  rw [toNat_wordOfBytes, wordAtPc, BitVec.toNat_ofNat]
  omega

theorem State.fetch_of_lt {s : State} (h : s.pc.toNat + 1 < 4096) : s.fetch = some (wordAtPc s) := by
  rw [← wordOfBytes_eq_wordAtPc]
  exact if_neg (Nat.not_le.mpr h)

theorem State.fetch_eq_some {s : State} {w : Word} (h : s.fetch = some w) : s.pc.toNat + 1 < 4096 ∧ w = wordAtPc s := by
  have hlt : s.pc.toNat + 1 < 4096 := Nat.not_le.mp fun hge => by simp [State.fetch_of_ge hge] at h
  exact ⟨hlt, Option.some.inj (h.symm.trans (State.fetch_of_lt hlt))⟩

theorem State.fetch_eq_none {s : State} (h : s.fetch = none) : 4096 ≤ s.pc.toNat + 1 :=
  Nat.not_lt.mp fun hlt => by simp [State.fetch_of_lt hlt] at h

theorem stepError_of_fetch_none {s : State} (h : s.fetch = none) : stepError s = some (.outOfBoundsFetch, 0) :=
  if_pos (State.fetch_eq_none h)

theorem stepError_of_decode_none {s : State} {w : Word} (hf : s.fetch = some w) (hd : decode w = none) :
    stepError s = some (.unsupportedOpcode, w) := by
  obtain ⟨hlt, rfl⟩ := State.fetch_eq_some hf
  rw [stepError, if_neg (Nat.not_le.mpr hlt), hd]

theorem stepError_of_executes {s : State} {i : Instr} (h : Executes s i) :
    stepError s = if instrError i s = .none then none else some (instrError i s, encode i) := by
  obtain ⟨-, w, hf, hd⟩ := h
  obtain ⟨hlt, rfl⟩ := State.fetch_eq_some hf
  rw [stepError, if_neg (Nat.not_le.mpr hlt), hd, encode_of_decode hd]

theorem instrError_of_stepError_none {s : State} {i : Instr} (hi : Executes s i) (h : stepError s = none) :
    instrError i s = .none := by
  by_contra hne
  rw [stepError_of_executes hi, if_neg hne] at h
  cases h

/-! ### Execution with a given draw -/

theorem execDraw_of_ne (rnd : Byte) {i : Instr} (s : State) (h : ∀ x nn, i ≠ .opCXNN x nn) : execDraw rnd i s = exec i s := by
  cases i with
  | opCXNN x nn => exact absurd rfl (h x nn)
  | _ => rfl

theorem exec_eq_execDraw (i : Instr) (s : State) : exec i s = execDraw (Config.randomByte s.draws) i s := by
  cases i <;> rfl

theorem step_eq_stepWith (s : State) : step s = stepWith (Config.randomByte s.draws) s :=
  cycle_congr fun i _ => exec_eq_execDraw i s.resume

theorem execDraw_of_instrError (rnd : Byte) {i : Instr} {s : State} (h : instrError i s ≠ .none) :
    execDraw rnd i s = .next (s.raise (instrError i s) (encode i)) := by
  rw [execDraw_of_ne rnd s (by rintro x nn rfl; exact h rfl), exec_of_instrError h]

theorem execDraw_completes (rnd : Byte) {i : Instr} {s : State} (hrun : s.run = .running) (h : instrError i s = .none) :
    ∃ t, execDraw rnd i s = .next t ∧ Completed i s t := by
  cases i with
  | opCXNN x nn =>
    exact ⟨_, execDraw_opCXNN rnd x nn s, { run := hrun, flow := flow_advance rfl rfl rfl }⟩
  | _ => exact exec_completes hrun h

/-! ### Everything a step can do -/

theorem Completed.run_ne_halted {i : Instr} {s t : State} (h : Completed i s t) : t.run ≠ .halted := by
  rw [h.run]
  unfold runAfter
  split
  · split <;> decide
  · decide

/-- What a step from `s` to `t` does: nothing, while Halted; the error read off the state; or instruction `i`, which leaves a state
`u` with the timers still to fall. -/
inductive StepKind (s t : State) : Prop
  | halted (hrun : s.run = .halted) (ht : t = s)
  | raised (k : ErrKind) (w : Word) (hrun : s.run ≠ .halted) (herr : stepError s = some (k, w)) (hk : k ≠ .none)
      (ht : t = s.raise k w)
  | completed (i : Instr) (u : State) (hi : Executes s i) (herr : stepError s = none) (hu : Completed i s.resume u)
      (ht : t = u.postStep)

/-- A step answers a next state, of one of the three kinds. -/
theorem stepWith_total (rnd : Byte) (s : State) : ∃ t, stepWith rnd s = .next t ∧ StepKind s t := by
  obtain hr | ⟨hr, hf⟩ | ⟨w, hr, hf, hd⟩ | ⟨i, hi⟩ := start_cases s
  · exact ⟨s, cycle_halted _ hr, .halted hr rfl⟩
  · exact ⟨_, cycle_of_fetch_none _ hr hf, .raised _ _ hr (stepError_of_fetch_none hf) (by decide) rfl⟩
  · exact ⟨_, cycle_of_decode_none _ hr hf hd, .raised _ _ hr (stepError_of_decode_none hf hd) (by decide) rfl⟩
  have hstep : stepWith rnd s = settleAnswer (execDraw rnd i s.resume) := cycle_of_executes _ hi
  by_cases he : instrError i s = .none
  · obtain ⟨u, hu, hc⟩ := execDraw_completes rnd (s := s.resume) rfl (by rwa [instrError_resume])
    rw [hu] at hstep
    refine ⟨u.settle, hstep, .completed i u hi ?_ hc (State.settle_going hc.run_ne_halted)⟩
    rw [stepError_of_executes hi, if_pos he]
  · rw [execDraw_of_instrError rnd (by rwa [instrError_resume]), instrError_resume] at hstep
    refine ⟨_, hstep, .raised (instrError i s) (encode i) hi.1 ?_ he (State.settle_halted rfl)⟩
    rw [stepError_of_executes hi, if_neg he]

theorem stepWith_kind {rnd : Byte} {s t : State} (h : stepWith rnd s = .next t) : StepKind s t := by
  obtain ⟨t', ht', hk⟩ := stepWith_total rnd s
  rw [h] at ht'
  cases ht'
  exact hk

theorem step_total (s : State) : ∃ t, step s = .next t ∧ StepKind s t := by
  rw [step_eq_stepWith]
  exact stepWith_total _ s

theorem step_kind {s t : State} (h : step s = .next t) : StepKind s t :=
  stepWith_kind ((step_eq_stepWith s).symm.trans h)

/-- A step that executes an instruction with no error completes it. -/
theorem StepKind.of_executes {s t : State} {i : Instr} (h : StepKind s t) (hi : Executes s i) (herr : stepError s = none) :
    ∃ u, Completed i s.resume u ∧ t = u.postStep := by
  cases h with
  | halted hrun _ => exact absurd hrun hi.1
  | raised k w _ herr' _ _ => cases herr.symm.trans herr'
  | completed j u hj _ hu hpost =>
    obtain rfl := hi.unique hj
    exact ⟨u, hu, hpost⟩

/-- A step that does not end Halted raised nothing. -/
theorem StepKind.stepError_none {s t : State} (h : StepKind s t) (ht : t.run ≠ .halted) : stepError s = none := by
  cases h with
  | halted hrun hts => exact absurd (hts ▸ hrun) ht
  | raised k w _ _ _ hraise => exact absurd (by rw [hraise, State.raise_run]) ht
  | completed _ _ _ herr _ _ => exact herr

end Sys2Proof.Machine
end

section
/-! PROOFS. The step (40_step_cycle.md, 60_exceptions.md): the cycle, the fetch, the errors, the timers and the run state. -/

namespace Sys2Proof.Machine

/-- Settles O6: the cycle executes from the resumed state and settles what comes back. -/
theorem stepRunsTheDecodedInstruction : Obligations.StepRunsTheDecodedInstruction := by
  unfold Obligations.StepRunsTheDecodedInstruction
  intro s w i hr hf hd
  have hstep : step s = settleAnswer (exec i s.resume) := cycle_of_executes exec ⟨hr, w, hf, hd⟩
  rw [hstep]
  change settleAnswer (exec i s.resume) = match exec i s.resume with | .next t => _ | .fault r => _ | .refused r => _
  cases exec i s.resume <;> rfl

/-- Settles O7: the cycle looks at `run` first and answers the state it got. -/
theorem haltedStepChangesNothing : Obligations.HaltedStepChangesNothing := by
  unfold Obligations.HaltedStepChangesNothing
  intro s hr
  exact cycle_halted exec hr

theorem step_of_fetch_none {s : State} (hr : s.run ≠ .halted) (hf : s.fetch = none) :
    step s = .next (s.raise .outOfBoundsFetch 0) :=
  cycle_of_fetch_none exec hr hf

theorem step_of_wordLegal_false {s : State} {w : Word} (hr : s.run ≠ .halted) (hf : s.fetch = some w)
    (hw : wordLegal w = false) : step s = .next (s.raise .unsupportedOpcode w) :=
  cycle_of_decode_none exec hr hf ((decode_none_iff w).mpr hw)

/-- Settles O8: the range test decides the fetch, and the concatenation of two bytes is their big-endian value. -/
theorem fetchReadsTwoBytesOrFails : Obligations.FetchReadsTwoBytesOrFails := by
  unfold Obligations.FetchReadsTwoBytesOrFails
  intro s
  constructor
  · intro hge
    have hf := State.fetch_of_ge hge
    exact ⟨hf, fun hr => ⟨_, step_of_fetch_none hr hf, rfl, rfl⟩⟩
  · intro hlt
    refine ⟨wordAtPc s, State.fetch_of_lt hlt, ?_⟩
    rw [← wordOfBytes_eq_wordAtPc, toNat_wordOfBytes]

/-- Settles O9: no row accepts exactly when the decoder answers none, and the cycle then raises. -/
theorem unsupportedWordHalts : Obligations.UnsupportedWordHalts := by
  unfold Obligations.UnsupportedWordHalts
  intro s w hr hf hw
  exact step_of_wordLegal_false hr hf hw

/-- Settles O10: FX15 and FX18 alone write a timer, and the post-step takes one off what the instruction left. -/
theorem timersFallOncePerStep : Obligations.TimersFallOncePerStep := by
  unfold Obligations.TimersFallOncePerStep
  intro s t i hi hstep ht
  have hkind := step_kind hstep
  obtain ⟨u, hu, rfl⟩ := hkind.of_executes hi (hkind.stepError_none ht)
  rw [State.postStep_dt, State.postStep_st, toNat_tick, toNat_tick, hu.delay, hu.sound]
  refine ⟨?_, ?_, ?_, ?_⟩
  · rintro x rfl; rfl
  · intro hne; rw [delayAfter_of_ne hne, State.resume_dt]
  · rintro x rfl; rfl
  · intro hne; rw [soundAfter_of_ne hne, State.resume_st]

/-- Settles O11: a step is of one of three kinds, and the error read off the state says which. -/
theorem errorsArePreciseAndOrdered : Obligations.ErrorsArePreciseAndOrdered := by
  unfold Obligations.ErrorsArePreciseAndOrdered
  intro s hr
  obtain ⟨t, hstep, hkind⟩ := step_total s
  cases hkind with
  | halted hrun _ => exact absurd hrun hr
  | raised k w _ herr _ ht =>
    constructor
    · intro k' w' herr'
      cases herr.symm.trans herr'
      rw [hstep, ht]; rfl
    · intro hnone
      cases herr.symm.trans hnone
  | completed i u _ herr hu ht =>
    constructor
    · intro k' w' herr'
      cases herr.symm.trans herr'
    · intro _
      subst ht
      exact ⟨_, hstep, hu.run_ne_halted, hu.err⟩

/-- Settles O12: Halted stays, an error halts, and an instruction that completes leaves `runAfter`. -/
theorem runStateFollowsTheTable : Obligations.RunStateFollowsTheTable := by
  unfold Obligations.RunStateFollowsTheTable
  have hwait : ∀ (s t : State) (x : Reg), step s = .next t → Executes s (.opFX0A x) →
      t.run = runAfter (.opFX0A x) s.resume := by
    intro s t x hstep hi
    obtain ⟨u, hu, rfl⟩ := (step_kind hstep).of_executes hi (stepError_of_executes hi)
    exact hu.run
  refine ⟨?halted, ?raised, ?blocked, ?key, ?other, fun _ => rfl⟩
  case halted =>
    intro s t hstep hr
    cases hstep.symm.trans (cycle_halted exec hr)
    exact hr
  case raised =>
    intro s t hstep hr herr
    cases step_kind hstep with
    | halted hrun _ => exact absurd hrun hr
    | raised k w _ _ _ ht => rw [ht, State.raise_run]
    | completed _ _ _ hnone _ _ => exact absurd hnone herr
  case blocked =>
    intro s t x hstep hi hkey
    exact (hwait s t x hstep hi).trans (if_pos hkey)
  case key =>
    intro s t x hstep hi hkey
    exact (hwait s t x hstep hi).trans (if_neg hkey)
  case other =>
    intro s t i hstep hi herr hne
    obtain ⟨u, hu, rfl⟩ := (step_kind hstep).of_executes hi herr
    rw [State.postStep_run, hu.run, runAfter_of_ne hne]

end Sys2Proof.Machine
end

section
/-! PROOFS. Reset and the invariant (10_state.md sections 3, 6, 8 and 10), and the rules on what steps change in memory, display and
keys: each is read off the three kinds of step. -/

namespace Sys2Proof.Machine

/-! ### Reset -/

theorem font_getElem? {k : Nat} (hk : k < 80) : Config.font[k]? = some (Config.resetByte (0x050 + k)) := by
  have hlen : k < Config.font.length := hk
  have hbase : ¬ 0x050 + k < Config.fontBase := Nat.not_lt.mpr (Nat.le_add_right _ _)
  have hoff : 0x050 + k - Config.fontBase = k := Nat.add_sub_cancel_left _ _
  rw [Config.resetByte, if_neg hbase, hoff, List.getD_eq_getElem _ _ hlen, List.getElem?_eq_getElem hlen]

theorem resetByte_outside_font {a : Nat} (h : a < 0x050 ∨ 0x0A0 ≤ a) : Config.resetByte a = 0 := by
  rw [Config.resetByte]
  split
  · rfl
  · next hbase =>
    have hlen : Config.font.length ≤ a - Config.fontBase := by
      change 80 ≤ a - 0x050
      change ¬ a < 0x050 at hbase
      omega
    exact List.getD_eq_default _ _ hlen

theorem State.reset_reg (r : Reg) : State.reset.reg r = 0 := Vector.getElem_replicate _

theorem State.reset_stack (k : Fin 16) : State.reset.stack[k.val] = 0 := Vector.getElem_replicate _

/-- Settles O13: Initialize gives the reset state but for the count of draws, and an unlisted byte reads as its reset byte. -/
theorem initializeLeavesTheResetValues : Obligations.InitializeLeavesTheResetValues := by
  unfold Obligations.InitializeLeavesTheResetValues
  intro t ht
  obtain ⟨n, rfl⟩ : ∃ n, t = { State.reset with draws := n } := by
    obtain rfl | ⟨s, rfl⟩ := ht
    · exact ⟨0, rfl⟩
    · exact ⟨s.draws, rfl⟩
  refine ⟨fun k hk => font_getElem? hk, fun a ha => resetByte_outside_font ha, State.reset_reg, rfl, rfl, State.reset_stack,
    rfl, rfl, rfl, fun k _ => cellLit_clear k, rfl, rfl, rfl, rfl⟩

/-- Settles O14: the reset state has no listed byte, no saved address, `pc` at 0x200 and no error. -/
theorem resetMeetsTheInvariant : Obligations.ResetMeetsTheInvariant := by
  unfold Obligations.ResetMeetsTheInvariant
  have herr : ∀ n, ({ State.reset with draws := n } : State).ErrAgrees := fun n => 
    ⟨fun hr => absurd hr (by decide : RunState.running ≠ .halted), fun _ => rfl⟩
  have hinv : ∀ n, ({ State.reset with draws := n } : State).Inv := fun n =>
    ⟨rfl, (by decide : (0x200 : Nat) ≤ maxPc), fun k hk => absurd hk (Nat.not_lt_zero _), herr n⟩
  exact ⟨hinv 0, fun s => hinv s.draws⟩

/-! ### Memory -/

/-- An instruction that completes stores nothing, or bytes that all exist. -/
theorem storedBytes_fit {i : Instr} {s : State} (h : instrError i s = .none) :
    storedBytes i s = [] ∨ s.i.toNat + (storedBytes i s).length ≤ Config.memSize := by
  cases i with
  | opFX33 x =>
    have hle := Nat.not_lt.mp (not_of_ite_eq h)
    right
    rw [storedBytes, length_bcdDigits, Config.memSize]
    omega
  | opFX55 x =>
    have hle := Nat.not_lt.mp (not_of_ite_eq h)
    right
    rw [storedBytes, length_regBlock, Config.memSize]
    omega
  | _ => exact .inl rfl

/-- What a step does to memory: nothing, or a store of bytes that all exist by the instruction executed. -/
theorem step_mem_cases {s t : State} (h : step s = .next t) :
    t.mem = s.mem ∨ ∃ i, Executes s i ∧ t.mem = s.mem.writeList s.i.toNat (storedBytes i s) ∧
      s.i.toNat + (storedBytes i s).length ≤ Config.memSize := by
  cases step_kind h with
  | halted _ ht => exact .inl (congrArg State.mem ht)
  | raised k w _ _ _ ht => exact .inl (ht ▸ rfl)
  | completed i u hi herr hu ht =>
    have hmem : t.mem = s.mem.writeList s.i.toNat (storedBytes i s) := by
      rw [ht, State.postStep_mem, hu.mem, storedBytes_resume, State.resume_mem, State.resume_i]
    obtain hnil | hfit := storedBytes_fit (instrError_of_stepError_none hi herr)
    · left; rw [hmem, hnil]; rfl
    · exact .inr ⟨i, hi, hmem, hfit⟩

/-- Settles O15: a step stores nothing or consecutive bytes below 4096, and such a store keeps the canonical form. -/
theorem stepKeepsMemoryCanonical : Obligations.StepKeepsMemoryCanonical := by
  unfold Obligations.StepKeepsMemoryCanonical
  intro s t hwf hstep
  obtain hmem | ⟨i, -, hmem, hfit⟩ := step_mem_cases hstep
  · rwa [hmem]
  · rw [hmem]
    exact Memory.wf_writeList _ _ _ hfit hwf

/-- Settles O18: a byte that changed lies in the block stored, and only FX33 and FX55 store a block. -/
theorem onlyStoresChangeMemory : Obligations.OnlyStoresChangeMemory := by
  unfold Obligations.OnlyStoresChangeMemory
  intro s t a hwf hstep hne
  obtain hmem | ⟨i, hi, hmem, hfit⟩ := step_mem_cases hstep
  · exact absurd (by rw [hmem]) hne
  have hin : s.i.toNat ≤ a ∧ a < s.i.toNat + (storedBytes i s).length := by
    by_contra hout
    rw [hmem, Memory.read_writeList _ _ _ _ hfit hwf, dif_neg hout] at hne
    exact hne rfl
  obtain ⟨hlo, hhi⟩ := hin
  cases i with
  | opFX33 x =>
    rw [storedBytes, length_bcdDigits] at hhi
    exact ⟨x, .inl ⟨hi, hlo, by omega⟩⟩
  | opFX55 x =>
    rw [storedBytes, length_regBlock] at hhi
    exact ⟨x, .inr ⟨hi, hlo, by omega⟩⟩
  | _ =>
    exact absurd hhi (Nat.not_lt.mpr hlo)

/-! ### `pc` and the return addresses -/

theorem addrWord_le_maxPc (nnn : Addr) : (addrWord nnn).toNat ≤ maxPc := by
  have hnnn := nnn.isLt
  rw [toNat_addrWord, maxPc]
  omega

theorem offsetTarget_le_maxPc (nnn : Addr) (b : Byte) : (offsetTarget nnn b).toNat ≤ maxPc := by
  have hnnn := nnn.isLt
  have hb := b.isLt
  rw [toNat_offsetTarget, maxPc]
  omega

/-- Two words on from an address that was fetched from, or that a fetched call saved, is below the bound. -/
theorem near_le_maxPc {a b : Word} (ha : a.toNat ≤ 4094) (hb : b = a ∨ b = a + 2 ∨ b = a + 4) : b.toNat ≤ maxPc := by
  rw [maxPc]
  obtain rfl | rfl | rfl := hb
  · omega
  · rw [BitVec.toNat_add]; simp; omega
  · rw [BitVec.toNat_add]; simp; omega

theorem Flow.pcBounded {s t : State} (h : Flow s t) (hpc : s.pc.toNat ≤ 4094) (hstack : s.StackBounded) : t.PcBounded := by
  rw [State.PcBounded]
  cases h with
  | near _ _ hnext => exact near_le_maxPc hpc hnext
  | jump _ _ nnn htarget | call _ _ _ nnn htarget => rw [htarget]; exact addrWord_le_maxPc nnn
  | offset _ _ nnn b htarget => rw [htarget]; exact offsetTarget_le_maxPc nnn b
  | ret k hsaved _ _ htarget => exact near_le_maxPc (hstack k (by omega)) (.inr (.inl htarget))

theorem Flow.stackBounded {s t : State} (h : Flow s t) (hpc : s.pc.toNat ≤ 4094) (hs : s.StackBounded) : t.StackBounded := by
  intro k hk
  cases h with
  | near hstack hsp _ | jump hstack hsp _ _ | offset hstack hsp _ _ _ =>
    simp only [hstack]
    exact hs k (by rwa [← hsp])
  | ret j hsaved hstack hsp _ =>
    simp only [hstack]
    exact hs k (by omega)
  | call hfree hstack hsp _ _ =>
    simp only [hstack, Vector.getElem_set]
    split
    · exact hpc
    · next hne => exact hs k (by omega)

/-- Settles O16: an instruction executed was fetched, so its own address is at most 4094, and `Flow` lists where `pc` and the stack go
from there. -/
theorem stepKeepsPcAndReturnAddressesBounded : Obligations.StepKeepsPcAndReturnAddressesBounded := by
  unfold Obligations.StepKeepsPcAndReturnAddressesBounded
  intro s t hpc hstack hstep
  cases step_kind hstep with
  | halted _ ht => subst ht; exact ⟨hpc, hstack⟩
  | raised k w _ _ _ ht => subst ht; exact ⟨hpc, hstack⟩
  | completed i u hi _ hu ht =>
    subst ht
    obtain ⟨-, w, hf, -⟩ := hi
    have hpc' : s.resume.pc.toNat ≤ 4094 := by
      have hlt := (State.fetch_eq_some hf).1
      rw [State.resume_pc]
      omega
    exact ⟨hu.flow.pcBounded hpc' hstack, hu.flow.stackBounded hpc' hstack⟩

/-- Settles O17: a step that raises records a kind and its own `pc`, and one that completes leaves the record and is not Halted. -/
theorem stepKeepsTheErrorRecord : Obligations.StepKeepsTheErrorRecord := by
  unfold Obligations.StepKeepsTheErrorRecord
  intro s t hagree hstep
  cases step_kind hstep with
  | halted _ ht => rwa [ht]
  | raised k w _ _ hk ht =>
    subst ht
    exact ⟨fun _ => ⟨hk, rfl⟩, fun hr => absurd rfl hr⟩
  | completed i u hi _ hu ht =>
    subst ht
    refine ⟨fun hr => absurd hr hu.run_ne_halted, fun _ => ?_⟩
    exact hu.err.trans (hagree.2 hi.1)

end Sys2Proof.Machine
end

section
/-! PROOFS. Rules on the whole machine: who changes the display, the redraw flag and the keys (10_state.md section 7), what no
instruction reads (R29, R35, R37), who uses the draw (40_step_cycle.md R129), and the jump to itself (70_reset_and_hazards.md R291). -/

namespace Sys2Proof.Machine

/-! ### Display, redraw and keys -/

theorem showsDisplay_iff (i : Instr) : showsDisplay i = true ↔ i = .op00E0 ∨ ∃ x y n, i = .opDXYN x y n := by
  cases i <;> simp [showsDisplay]

/-- A step changes the display and the redraw flag by an instruction that shows a display, and only so. -/
theorem step_display_cases {s t : State} (h : step s = .next t) :
    (t.disp = s.disp ∧ t.redraw = s.redraw) ∨
      ((Executes s .op00E0 ∨ ∃ x y n, Executes s (.opDXYN x y n)) ∧ t.redraw = true) := by
  cases step_kind h with
  | halted _ ht => exact .inl (ht ▸ ⟨rfl, rfl⟩)
  | raised k w _ _ _ ht => exact .inl (ht ▸ ⟨rfl, rfl⟩)
  | completed i u hi _ hu ht =>
    subst ht
    have hredraw : u.redraw = (showsDisplay i || s.redraw) := hu.redraw
    cases hshow : showsDisplay i with
    | true =>
      right
      rw [hshow, Bool.true_or] at hredraw
      obtain rfl | ⟨x, y, n, rfl⟩ := (showsDisplay_iff i).mp hshow
      · exact ⟨.inl hi, hredraw⟩
      · exact ⟨.inr ⟨x, y, n, hi⟩, hredraw⟩
    | false =>
      left
      rw [hshow, Bool.false_or] at hredraw
      exact ⟨hu.disp.resolve_left (by rw [hshow]; decide), hredraw⟩

/-- Settles O19: a step that changes the display or the flag executes one of the two, and each of the two that completes sets the
flag. -/
theorem onlyDisplayInstructionsChangeTheDisplay : Obligations.OnlyDisplayInstructionsChangeTheDisplay := by
  unfold Obligations.OnlyDisplayInstructionsChangeTheDisplay
  refine ⟨?changes, ?keeps, ?sets⟩
  case changes =>
    intro s t hstep hne
    obtain ⟨hdisp, hredraw⟩ | ⟨hex, -⟩ := step_display_cases hstep
    · exact absurd hdisp (hne.resolve_right (not_not_intro hredraw))
    · exact hex
  case keeps =>
    intro s t hstep hset
    obtain ⟨-, hredraw⟩ | ⟨-, hredraw⟩ := step_display_cases hstep
    · exact hredraw.trans hset
    · exact hredraw
  case sets =>
    intro s t hstep ht hex
    obtain ⟨i, hi, hshow⟩ : ∃ i, Executes s i ∧ showsDisplay i = true := by
      obtain hi | ⟨x, y, n, hi⟩ := hex
      · exact ⟨_, hi, rfl⟩
      · exact ⟨_, hi, rfl⟩
    have hkind := step_kind hstep
    obtain ⟨u, hu, rfl⟩ := hkind.of_executes hi (hkind.stepError_none ht)
    rw [State.postStep_redraw, hu.redraw, hshow, Bool.true_or]

theorem StepKind.key {s t : State} (h : StepKind s t) : t.key = s.key := by
  cases h with
  | halted _ ht => rw [ht]
  | raised k w _ _ _ ht => rw [ht, State.raise_key]
  | completed i u _ _ hu ht => rw [ht, State.postStep_key, hu.key, State.resume_key]

theorem State.loadProgram_eq_some {s t : State} {image : List Byte} (h : s.loadProgram image = some t) :
    t = s.storeBytes Config.progBase image := by
  unfold State.loadProgram at h
  split at h <;> cases h
  rfl

/-- Settles O20: no step and no load writes `key`, and the two operations that do write it whole. -/
theorem keysKeepTheLastValueTheHostWrote : Obligations.KeysKeepTheLastValueTheHostWrote := by
  unfold Obligations.KeysKeepTheLastValueTheHostWrote
  refine ⟨fun _ _ h => (step_kind h).key, fun _ _ _ h => (stepWith_kind h).key, ?_, State.clearRedraw_key, State.setKeys_key,
    fun _ => rfl⟩
  intro s t image h
  rw [State.loadProgram_eq_some h, State.storeBytes_key]

/-! ### The sound timer, the redraw flag and the error record are never read -/

/-- The state with other values in the three elements no instruction reads. -/
def State.withUnread (s : State) (b : Byte) (f : Bool) (e : ErrRecord) : State := { s with st := b, redraw := f, err := e }

/-- Two states that agree but for `ST`, `redraw` and `err`. -/
def SameButUnread (u t : State) : Prop := u.withUnread t.st t.redraw t.err = t

theorem sameButUnread_withUnread (s : State) (b : Byte) (f : Bool) (e : ErrRecord) : SameButUnread (s.withUnread b f e) s := rfl

theorem SameButUnread.run {u t : State} (h : SameButUnread u t) : u.run = t.run := by
  have heq : u.withUnread t.st t.redraw t.err = t := h
  exact (congrArg State.run heq :)

theorem SameButUnread.postStep {u t : State} (h : SameButUnread u t) : SameButUnread u.postStep t.postStep := by
  have heq : u.withUnread t.st t.redraw t.err = t := h
  exact (congrArg State.postStep heq :)

theorem SameButUnread.settle {u t : State} (h : SameButUnread u t) : SameButUnread u.settle t.settle := by
  by_cases ht : t.run = .halted
  · rw [State.settle_halted ht, State.settle_halted (h.run.trans ht)]
    exact h
  · rw [State.settle_going ht, State.settle_going (h.run ▸ ht)]
    exact h.postStep

/-- A check goes the same way over two pairs of states that agree but for the three. -/
theorem checked_sameButUnread {ok : Bool} {k : ErrKind} {i : Instr} {s s' t t' v : State} (hs : SameButUnread s' s)
    (ht : SameButUnread t' t) (h : checked ok k i s t = .next v) :
    ∃ u, checked ok k i s' t' = .next u ∧ SameButUnread u v := by
  obtain ⟨rfl, rfl⟩ | ⟨rfl, rfl⟩ := checked_cases h
  · exact ⟨t', checked_true k i s' t', ht⟩
  · have heq : s'.withUnread s.st s.redraw s.err = s := hs
    have hraise : (s'.raise k (encode i)).withUnread s.st s.redraw (s.raise k (encode i)).err = s.raise k (encode i) := by
      rw [← heq]; rfl
    exact ⟨s'.raise k (encode i), checked_false k i s' t', hraise⟩

/-- An instruction runs alike from two states that agree but for the three. -/
theorem exec_withUnread {i : Instr} {s t : State} (b : Byte) (f : Bool) (e : ErrRecord) (h : exec i s = .next t) :
    ∃ u, exec i (s.withUnread b f e) = .next u ∧ SameButUnread u t := by
  cases i with
  | op00EE =>
    by_cases hsp : s.sp.val = 0
    · cases h.symm.trans (exec_op00EE_empty hsp)
      exact ⟨_, exec_op00EE_empty hsp, rfl⟩
    · obtain ⟨k, hk⟩ := s.exists_saved hsp
      cases h.symm.trans (exec_op00EE_of_saved k hk)
      exact ⟨_, exec_op00EE_of_saved (s := s.withUnread b f e) k hk, rfl⟩
  | op2NNN nnn =>
    by_cases hsp : s.sp.val < 16
    · cases h.symm.trans (exec_op2NNN_of_lt nnn hsp)
      exact ⟨_, exec_op2NNN_of_lt (s := s.withUnread b f e) nnn hsp, rfl⟩
    · have hlt := s.sp.isLt
      have hfull : s.sp.val = 16 := by omega
      cases h.symm.trans (exec_op2NNN_full nnn hfull)
      exact ⟨_, exec_op2NNN_full nnn hfull, rfl⟩
  | opFX0A x =>
    cases hk : s.lowestKey with
    | none =>
      cases h.symm.trans (exec_opFX0A_blocked x hk)
      exact ⟨_, exec_opFX0A_blocked x hk, rfl⟩
    | some k =>
      cases h.symm.trans (exec_opFX0A_key x hk)
      exact ⟨_, exec_opFX0A_key x hk, rfl⟩
  | opDXYN x y n =>
    refine checked_sameButUnread (sameButUnread_withUnread s b f e) ?_ h
    rfl
  | opEX9E x | opEXA1 x | opFX33 x | opFX55 x | opFX65 x =>
    refine checked_sameButUnread (sameButUnread_withUnread s b f e) ?_ h
    rfl
  | _ =>
    cases h
    exact ⟨_, rfl, rfl⟩

/-- Settles O21: the cycle starts alike, the error records are replaced whole, and instructions do not read the three. -/
theorem soundTimerRedrawAndErrorAreNeverRead : Obligations.SoundTimerRedrawAndErrorAreNeverRead := by
  unfold Obligations.SoundTimerRedrawAndErrorAreNeverRead
  intro s t b f e hstep
  suffices h : ∃ u, step (s.withUnread b f e) = .next u ∧ SameButUnread u t from h
  obtain hr | ⟨hr, hf⟩ | ⟨w, hr, hf, hd⟩ | ⟨i, hi⟩ := start_cases s
  · cases hstep.symm.trans (cycle_halted exec hr)
    exact ⟨_, cycle_halted exec hr, rfl⟩
  · cases hstep.symm.trans (cycle_of_fetch_none exec hr hf)
    exact ⟨_, cycle_of_fetch_none exec hr hf, rfl⟩
  · cases hstep.symm.trans (cycle_of_decode_none exec hr hf hd)
    exact ⟨_, cycle_of_decode_none exec hr hf hd, rfl⟩
  · obtain ⟨v, hv, rfl⟩ := settleAnswer_next ((cycle_of_executes exec hi).symm.trans hstep)
    obtain ⟨u, hu, hsame⟩ := exec_withUnread b f e hv
    have hstep' : step (s.withUnread b f e) = settleAnswer (exec i (s.resume.withUnread b f e)) :=
      cycle_of_executes exec (s := s.withUnread b f e) hi
    exact ⟨u.settle, by rw [hstep', hu, settleAnswer], hsame.settle⟩

/-! ### The draw -/

/-- Settles O22: an instruction other than CXNN is executed without the draw. -/
theorem onlyCXNNUsesTheDraw : Obligations.OnlyCXNNUsesTheDraw := by
  unfold Obligations.OnlyCXNNUsesTheDraw
  refine ⟨fun s q r hno => ?_, step_eq_stepWith⟩
  refine cycle_congr fun i hi => ?_
  have hne : ∀ x nn, i ≠ .opCXNN x nn := by
    rintro x nn rfl
    exact hno x nn hi
  rw [execDraw_of_ne q _ hne, execDraw_of_ne r _ hne]

/-! ### The jump to itself -/

/-- Settles O23: the jump installs the `pc` that is there, and the post-step follows. -/
theorem jumpToSelfIsAFixedPoint : Obligations.JumpToSelfIsAFixedPoint := by
  unfold Obligations.JumpToSelfIsAFixedPoint
  intro s nnn hi hself
  have htarget : addrWord nnn = s.pc := BitVec.eq_of_toNat_eq ((toNat_addrWord nnn).trans hself)
  have hstep : step s = .next (s.resume.jump (addrWord nnn)).settle := cycle_of_executes exec hi
  rw [htarget, State.settle_going (by rw [State.jump_run, State.resume_run]; decide)] at hstep
  exact ⟨_, hstep, rfl, toNat_tick s.dt, toNat_tick s.st⟩

end Sys2Proof.Machine
end

section
/-! PROOFS. Offset jump, call and return (41_control_flow.md R141, R143, R148). -/

namespace Sys2Proof.Machine

/-- Settles O25: the target is a 16-bit sum of two values whose integer sum fits. -/
theorem offsetJumpAddsRegisterZero : Obligations.OffsetJumpAddsRegisterZero := by
  unfold Obligations.OffsetJumpAddsRegisterZero
  intro nnn s
  exact ⟨_, exec_opBNNN nnn s, rfl, toNat_offsetTarget nnn (s.reg 0)⟩

/-- Settles O26: a push writes the slot at `sp`, and with sixteen entries the check of the call fails. -/
theorem callSavesItsOwnAddress : Obligations.CallSavesItsOwnAddress := by
  unfold Obligations.CallSavesItsOwnAddress
  intro nnn s
  constructor
  · intro hfree
    refine ⟨_, exec_op2NNN_of_lt nnn hfree, rfl, rfl, toNat_addrWord nnn, ?_, ?_⟩
    · intro k hk
      simp [hk]
    · intro k hk
      exact Vector.getElem_set_ne hfree k.isLt (Ne.symm hk)
  · intro hfull
    exact ⟨_, exec_op2NNN_full nnn hfull, rfl, rfl⟩

/-- Settles O27: a pop reads the slot below `sp`, and with no entry the check of the return fails. -/
theorem returnContinuesPastTheSavedAddress : Obligations.ReturnContinuesPastTheSavedAddress := by
  unfold Obligations.ReturnContinuesPastTheSavedAddress
  intro s
  constructor
  · intro k hk
    exact ⟨_, exec_op00EE_of_saved k hk, rfl, rfl, rfl⟩
  · intro hempty
    exact ⟨_, exec_op00EE_empty hempty, rfl, rfl⟩

/-- Settles O28: the return reads the slot the call wrote, which holds the call's own address. -/
theorem returnUndoesCall : Obligations.ReturnUndoesCall := by
  unfold Obligations.ReturnUndoesCall
  intro nnn s t u hfree hcall hsp hslot
  cases hcall.symm.trans (exec_op2NNN_of_lt nnn hfree)
  have hsaved : u.sp.val = s.sp.val + 1 := congrArg Fin.val hsp
  have hpc : u.stack[s.sp.val] = s.pc := (hslot ⟨s.sp.val, hfree⟩ rfl).trans (Vector.getElem_set_self _)
  refine ⟨_, exec_op00EE_of_saved ⟨s.sp.val, hfree⟩ hsaved, ?_, rfl, rfl⟩
  exact congrArg (· + 2) hpc

end Sys2Proof.Machine
end

section
/-! PROOFS. Flag arithmetic and shifts (42_register_alu.md R160, R167 to R173): the flag is written first, so an operand that is `VF`
reads the flag (decision D6). -/

namespace Sys2Proof.Machine

/-- An operand as it reads once the flag is written (R160). -/
def operandAfterFlag (s : State) (flag : Byte) (r : Reg) : Byte := if r = 15 then flag else s.reg r

theorem reg_setReg_vf (s : State) (flag : Byte) (r : Reg) : (s.setReg vf flag).reg r = operandAfterFlag s flag r :=
  s.reg_setReg vf r flag

theorem operandAfterFlag_of_ne {s : State} {flag : Byte} {r : Reg} (h : r ≠ 15) : operandAfterFlag s flag r = s.reg r := if_neg h

theorem operandAfterFlag_vf (s : State) (flag : Byte) : operandAfterFlag s flag 15 = flag := if_pos rfl

theorem State.reg_flagThenReg_advance_ne (s : State) {x r : Reg} (flag : Byte) (f : State → Byte) (hrx : r ≠ x)
    (hrf : r ≠ 15) : (s.flagThenReg flag x f).advance.reg r = s.reg r := by
  rw [State.advance_reg, State.reg_flagThenReg, if_neg hrx]
  exact if_neg hrf

/-- What an instruction does that writes a flag and then `op` of its two registers as the flag write left them: with neither, the
second, the first or both of them `VF`. -/
theorem State.writesFlagThenResult {a : Answer} {s : State} {x y : Reg} {flag : Byte} {op : Byte → Byte → Byte}
    (ha : a = .next (s.flagThenReg flag x fun t => op (t.reg x) (t.reg y)).advance) :
    ∃ t, a = .next t ∧ t = { s with v := t.v, pc := s.pc + 2 } ∧ (∀ r, r ≠ x → r ≠ 15 → t.reg r = s.reg r) ∧
      (x ≠ 15 → y ≠ 15 → t.reg 15 = flag ∧ t.reg x = op (s.reg x) (s.reg y)) ∧
      (x ≠ 15 → y = 15 → t.reg 15 = flag ∧ t.reg x = op (s.reg x) flag) ∧
      (x = 15 → y ≠ 15 → t.reg 15 = op flag (s.reg y)) ∧
      (x = 15 → y = 15 → t.reg 15 = op flag flag) := by
  refine ⟨(s.flagThenReg flag x fun t => op (t.reg x) (t.reg y)).advance, ha, rfl,
    fun r hrx hrf => s.reg_flagThenReg_advance_ne flag _ hrx hrf, ?_⟩
  simp only [State.advance_reg, State.reg_flagThenReg, reg_setReg_vf]
  refine ⟨?neither, ?second, ?first, ?both⟩
  case neither =>
    intro hx hy
    rw [if_neg (Ne.symm hx), if_pos trivial, operandAfterFlag_of_ne hx, operandAfterFlag_of_ne hy]
    exact ⟨if_pos rfl, rfl⟩
  case second =>
    rintro hx rfl
    rw [if_neg (Ne.symm hx), if_pos trivial, operandAfterFlag_of_ne hx, operandAfterFlag_vf]
    exact ⟨if_pos rfl, rfl⟩
  case first =>
    rintro rfl hy
    rw [if_pos rfl, operandAfterFlag_vf, operandAfterFlag_of_ne hy]
  case both =>
    rintro rfl rfl
    rw [if_pos rfl, operandAfterFlag_vf]

/-! ### The flags and the results, on values -/

theorem toNat_flagByte (c : Bool) : (flagByte c).toNat = if c then 1 else 0 := by
  cases c <;> rfl

theorem toNat_carryFlag (a b : Byte) : (carryFlag a b).toNat = if a.toNat + b.toNat > 255 then 1 else 0 := by
  simp [carryFlag, toNat_flagByte]

theorem toNat_greaterFlag (a b : Byte) : (greaterFlag a b).toNat = if a.toNat > b.toNat then 1 else 0 := by
  simp [greaterFlag, toNat_flagByte]

theorem toNat_notGreaterFlag (a b : Byte) : (notGreaterFlag a b).toNat = if a.toNat > b.toNat then 0 else 1 := by
  by_cases h : a.toNat ≤ b.toNat
  · simp [notGreaterFlag, toNat_flagByte, h, Nat.not_lt.mpr h]
  · simp [notGreaterFlag, toNat_flagByte, h, Nat.not_le.mp h]

theorem toNat_sub_byte (a b : Byte) : (a - b).toNat = (a.toNat + 256 - b.toNat) % 256 := by
  have hb := b.isLt
  rw [BitVec.toNat_sub]
  congr 1
  omega

theorem toNat_shiftRightFlag (a : Byte) : (shiftRightFlag a).toNat = a.toNat % 2 := by
  rw [shiftRightFlag, BitVec.toNat_and]
  exact Nat.and_one_is_mod _

theorem toNat_shiftLeftFlag (a : Byte) : (shiftLeftFlag a).toNat = if a.toNat ≥ 128 then 128 else 0 := by
  have ha := a.isLt
  have hand : (shiftLeftFlag a).toNat = (a.toNat.testBit 7).toNat * 2 ^ 7 := by
    rw [shiftLeftFlag, BitVec.toNat_and]
    exact Nat.and_two_pow _ 7
  rw [hand, Nat.testBit_eq_decide_div_mod_eq]
  by_cases h : a.toNat ≥ 128
  · have hbit : decide (a.toNat / 2 ^ 7 % 2 = 1) = true := decide_eq_true (by omega)
    rw [hbit, if_pos h]; rfl
  · have hbit : decide (a.toNat / 2 ^ 7 % 2 = 1) = false := decide_eq_false (by omega)
    rw [hbit, if_neg h]; rfl

theorem toNat_shiftRight_one (a : Byte) : (a >>> 1).toNat = a.toNat / 2 := by
  simp [Nat.shiftRight_eq_div_pow]

theorem toNat_shiftLeft_one (a : Byte) : (a <<< 1).toNat = 2 * a.toNat % 256 := by
  simp [Nat.shiftLeft_eq, Nat.mul_comm]

/-! ### The obligations -/

/-- Settles O33: the four forms of the flag-first rule, with the carry as flag and the byte sum as result. -/
theorem addSetsCarryThenSum : Obligations.AddSetsCarryThenSum := by
  unfold Obligations.AddSetsCarryThenSum
  rintro x y s a b c rfl rfl rfl
  obtain ⟨t, ht, hframe, hrest, hneither, hsecond, hfirst, hboth⟩ := State.writesFlagThenResult (exec_op8XY4 x y s)
  rw [← toNat_carryFlag]
  refine ⟨t, ht, hframe, hrest, ?_, ?_, ?_, ?_⟩
  · intro hx hy
    obtain ⟨hflag, hres⟩ := hneither hx hy
    rw [hflag, hres, BitVec.toNat_add]
    exact ⟨rfl, rfl⟩
  · intro hx hy
    obtain ⟨hflag, hres⟩ := hsecond hx hy
    rw [hflag, hres, BitVec.toNat_add]
    exact ⟨rfl, rfl⟩
  · intro hx hy
    rw [hfirst hx hy, BitVec.toNat_add]
  · intro hx hy
    have hle : (carryFlag (s.reg x) (s.reg y)).toNat ≤ 1 := by rw [toNat_carryFlag]; split <;> decide
    rw [hboth hx hy, BitVec.toNat_add]
    omega

/-- Settles O34: the same forms with the strict comparison as flag; a register minus itself is 0. -/
theorem subtractSetsGreaterThenDifference : Obligations.SubtractSetsGreaterThenDifference := by
  unfold Obligations.SubtractSetsGreaterThenDifference
  rintro x y s a b c rfl rfl rfl
  obtain ⟨t, ht, hframe, hrest, hneither, hsecond, hfirst, hboth⟩ := State.writesFlagThenResult (exec_op8XY5 x y s)
  rw [← toNat_greaterFlag]
  refine ⟨t, ht, hframe, hrest, ?_, ?_, ?_, ?_⟩
  · intro hx hy
    obtain ⟨hflag, hres⟩ := hneither hx hy
    rw [hflag, hres, toNat_sub_byte]
    exact ⟨rfl, rfl⟩
  · intro hx hy
    obtain ⟨hflag, hres⟩ := hsecond hx hy
    rw [hflag, hres, toNat_sub_byte]
    exact ⟨rfl, rfl⟩
  · intro hx hy
    rw [hfirst hx hy, toNat_sub_byte]
  · rintro rfl
    by_cases hx : x = 15
    · have hzero := hboth hx hx
      rw [BitVec.sub_self] at hzero
      rw [hx, hzero]
      exact ⟨rfl, rfl⟩
    · obtain ⟨hflag, hres⟩ := hneither hx hx
      rw [hflag, hres, BitVec.sub_self, toNat_greaterFlag, if_neg (lt_irrefl _)]
      exact ⟨rfl, rfl⟩

/-- Settles O35: the same forms with the negated comparison as flag and the operands of the difference exchanged. -/
theorem reverseSubtractSetsNotGreaterThenDifference : Obligations.ReverseSubtractSetsNotGreaterThenDifference := by
  unfold Obligations.ReverseSubtractSetsNotGreaterThenDifference
  rintro x y s a b c rfl rfl rfl
  obtain ⟨t, ht, hframe, hrest, hneither, hsecond, hfirst, hboth⟩ :=
    State.writesFlagThenResult (op := fun p q => q - p) (exec_op8XY7 x y s)
  rw [← toNat_notGreaterFlag]
  refine ⟨t, ht, hframe, hrest, ?_, ?_, ?_, ?_⟩
  · intro hx hy
    obtain ⟨hflag, hres⟩ := hneither hx hy
    rw [hflag, hres, toNat_sub_byte]
    exact ⟨rfl, rfl⟩
  · intro hx hy
    obtain ⟨hflag, hres⟩ := hsecond hx hy
    rw [hflag, hres, toNat_sub_byte]
    exact ⟨rfl, rfl⟩
  · intro hx hy
    rw [hfirst hx hy, toNat_sub_byte]
  · intro hx hy
    rw [hboth hx hy, BitVec.sub_self]
    rfl

/-- Settles O36: the forms with one operand; the bit shifted out is all the flag holds, so shifting it again leaves 0. -/
theorem shiftsMoveOnePlaceAndKeepTheBitOut : Obligations.ShiftsMoveOnePlaceAndKeepTheBitOut := by
  unfold Obligations.ShiftsMoveOnePlaceAndKeepTheBitOut
  rintro x y s a rfl
  constructor
  · obtain ⟨t, ht, hframe, hrest, hneither, -, -, hboth⟩ :=
      State.writesFlagThenResult (y := x) (op := fun p _ => p >>> 1) (exec_op8XY6 x y s)
    refine ⟨t, ht, hframe, hrest, fun hx => ?_, fun hx => ?_⟩
    · obtain ⟨hflag, hres⟩ := hneither hx hx
      rw [hflag, hres, toNat_shiftRightFlag, toNat_shiftRight_one]
      exact ⟨rfl, rfl⟩
    · rw [hboth hx hx, toNat_shiftRight_one, toNat_shiftRightFlag]
      omega
  · obtain ⟨t, ht, hframe, hrest, hneither, -, -, hboth⟩ :=
      State.writesFlagThenResult (y := x) (op := fun p _ => p <<< 1) (exec_op8XYE x y s)
    refine ⟨t, ht, hframe, hrest, fun hx => ?_, fun hx => ?_⟩
    · obtain ⟨hflag, hres⟩ := hneither hx hx
      rw [hflag, hres, toNat_shiftLeftFlag, toNat_shiftLeft_one]
      exact ⟨rfl, rfl⟩
    · rw [hboth hx hx, toNat_shiftLeft_one, toNat_shiftLeftFlag]
      split <;> rfl

end Sys2Proof.Machine
end

section
/-! PROOFS. Index register and memory (43_index_memory.md R182 to R186, 20_memory.md R63, R70). -/

namespace Sys2Proof.Machine

/-! ### Index moves -/

theorem toNat_indexPlus (a : Word) (b : Byte) : (indexPlus a b).toNat = (a.toNat + b.toNat) % 65536 := by
  have hb := b.isLt
  rw [indexPlus, BitVec.toNat_add, BitVec.toNat_setWidth_of_le (by decide)]

theorem toNat_glyphAddress (b : Byte) : (glyphAddress b).toNat = 0x050 + b.toNat * 5 := by
  have hb := b.isLt
  rw [glyphAddress, BitVec.toNat_ofNat, Config.fontBase, Config.glyphLen]
  omega

/-- Settles O38: each writes `I` and advances, and the values are those of the two address forms. -/
theorem indexAddAndGlyphAddress : Obligations.IndexAddAndGlyphAddress := by
  unfold Obligations.IndexAddAndGlyphAddress
  intro x s
  exact ⟨⟨_, exec_opFX1E x s, rfl, toNat_indexPlus s.i (s.reg x)⟩, ⟨_, exec_opFX29 x s, rfl, toNat_glyphAddress (s.reg x)⟩⟩

/-! ### Stores -/

/-- Inside a block of bytes stored, memory reads as the block. -/
theorem Memory.read_writeList_inside {m : Memory} {a k : Nat} {bs : List Byte} (hwf : m.wf = true)
    (hfit : a + bs.length ≤ Config.memSize) (hk : k < bs.length) : (m.writeList a bs).read (a + k) = bs[k] := by
  rw [Memory.read_writeList bs m a (a + k) hfit hwf, dif_pos ⟨Nat.le_add_right a k, Nat.add_lt_add_left hk a⟩]
  simp only [Nat.add_sub_cancel_left]

/-- Outside a block of bytes stored, memory reads as before. -/
theorem Memory.read_writeList_outside {m : Memory} {a c : Nat} {bs : List Byte} (hwf : m.wf = true)
    (hfit : a + bs.length ≤ Config.memSize) (hc : ¬ (a ≤ c ∧ c < a + bs.length)) : (m.writeList a bs).read c = m.read c := by
  rw [Memory.read_writeList bs m a c hfit hwf, dif_neg hc]

theorem bcdDigits_fit (s : State) (b : Byte) (h : s.i.toNat + 2 ≤ 4095) :
    s.i.toNat + (bcdDigits b).length ≤ Config.memSize := by
  rw [length_bcdDigits, Config.memSize]
  omega

theorem regBlock_fit {s : State} {x : Reg} (h : s.i.toNat + x.val ≤ 4095) :
    s.i.toNat + (regBlock s x).length ≤ Config.memSize := by
  rw [length_regBlock, Config.memSize]
  omega

/-- The digits FX33 stores, on values. -/
theorem toNat_bcdDigits (b : Byte) :
    (bcdDigits b)[0].toNat = b.toNat / 100 ∧ (bcdDigits b)[1].toNat = b.toNat / 10 % 10 ∧
      (bcdDigits b)[2].toNat = b.toNat % 10 := by
  have hlt := b.isLt
  refine ⟨?_, ?_, ?_⟩
  · exact Nat.mod_eq_of_lt (by omega)
  · exact Nat.mod_eq_of_lt (by omega)
  · exact Nat.mod_eq_of_lt (by omega)

/-- Settles O39: the three bytes stored are the digits, each below 256. -/
theorem bcdStoresThreeDigits : Obligations.BcdStoresThreeDigits := by
  unfold Obligations.BcdStoresThreeDigits
  intro x s hwf hle
  have hfit := bcdDigits_fit s (s.reg x) hle
  have hread : ∀ k (hk : k < 3), (s.mem.writeList s.i.toNat (bcdDigits (s.reg x))).read (s.i.toNat + k) =
      (bcdDigits (s.reg x))[k] := fun k hk => Memory.read_writeList_inside hwf hfit hk
  obtain ⟨hundreds, tens, ones⟩ := toNat_bcdDigits (s.reg x)
  refine ⟨_, exec_opFX33_of_le x hle, rfl, ?_, ?_, ?_, ?rest⟩
  · exact (congrArg BitVec.toNat (hread 0 (by decide))).trans hundreds
  · exact (congrArg BitVec.toNat (hread 1 (by decide))).trans tens
  · exact (congrArg BitVec.toNat (hread 2 (by decide))).trans ones
  case rest =>
    intro a ha
    refine Memory.read_writeList_outside hwf hfit ?_
    rw [length_bcdDigits]
    omega

/-- The block FX55 stores holds the registers. -/
theorem read_regBlock {s : State} {x k : Reg} (hwf : s.mem.wf = true) (hle : s.i.toNat + x.val ≤ 4095) (hk : k.val ≤ x.val) :
    (s.mem.writeList s.i.toNat (regBlock s x)).read (s.i.toNat + k.val) = s.reg k := by
  have hlen : k.val < (regBlock s x).length := by rw [length_regBlock]; omega
  rw [Memory.read_writeList_inside hwf (regBlock_fit hle) hlen, getElem_regBlock]
  rfl

/-- Settles O40: the block stored holds `V[0]` to `V[X]`. -/
theorem storeRegistersFillsTheBlock : Obligations.StoreRegistersFillsTheBlock := by
  unfold Obligations.StoreRegistersFillsTheBlock
  intro x s hwf hle
  refine ⟨_, exec_opFX55_of_le hle, rfl, toNat_indexPast s.i x hle, fun k hk => read_regBlock hwf hle hk, ?_⟩
  intro a ha
  refine Memory.read_writeList_outside hwf (regBlock_fit hle) ?_
  rw [length_regBlock]
  omega

/-! ### Loads -/

/-- The registers after a block load: those up to X from memory, those above as before. -/
theorem State.reg_loadBlock (s : State) (x k : Reg) :
    (s.loadBlock x).reg k = if k.val ≤ x.val then s.mem.read (s.i.toNat + k.val) else s.reg k := by
  have h := getElem_loadFrom (s.mem.readList s.i.toNat (x.val + 1)) s.v 0 k.val k.isLt
  rw [State.reg, State.loadBlock_v, h]
  by_cases hk : k.val ≤ x.val
  · have hin : 0 ≤ k.val ∧ k.val < 0 + (s.mem.readList s.i.toNat (x.val + 1)).length := by
      rw [Memory.length_readList]; omega
    rw [dif_pos hin, if_pos hk, Memory.getElem_readList, Nat.sub_zero]
  · have hout : ¬ (0 ≤ k.val ∧ k.val < 0 + (s.mem.readList s.i.toNat (x.val + 1)).length) := by
      rw [Memory.length_readList]; omega
    rw [dif_neg hout, if_neg hk]
    rfl

/-- Settles O41: the block load writes the registers up to X and none above. -/
theorem loadRegistersReadsTheBlock : Obligations.LoadRegistersReadsTheBlock := by
  unfold Obligations.LoadRegistersReadsTheBlock
  intro x s hle
  refine ⟨_, exec_opFX65_of_le hle, rfl, toNat_indexPast s.i x hle, ?_, ?_⟩
  · intro k hk
    exact (s.reg_loadBlock x k).trans (if_pos hk)
  · intro k hk
    exact (s.reg_loadBlock x k).trans (if_neg (Nat.not_le.mpr hk))

/-! ### Stores seen by loads and fetches -/

/-- Settles O42: the load reads the block the store filled. -/
theorem storeThenLoadReturnsTheRegisters : Obligations.StoreThenLoadReturnsTheRegisters := by
  unfold Obligations.StoreThenLoadReturnsTheRegisters
  intro x s t u hwf hle hstore hmem hindex
  cases hstore.symm.trans (exec_opFX55_of_le hle)
  have hmem' : u.mem = s.mem.writeList s.i.toNat (regBlock s x) := hmem
  refine ⟨_, exec_opFX65_of_le (hindex ▸ hle), fun k hk => ?_⟩
  refine (u.reg_loadBlock x k).trans ?_
  rw [if_pos hk, hmem', hindex, read_regBlock hwf hle hk]

/-- Settles O43: the fetch reads two bytes of the block the store filled. -/
theorem fetchSeesStoredBytes : Obligations.FetchSeesStoredBytes := by
  unfold Obligations.FetchSeesStoredBytes
  intro x j k s t u hwf hle hstore hjk hk hmem hpc
  cases hstore.symm.trans (exec_opFX55_of_le hle)
  have hmem' : u.mem = s.mem.writeList s.i.toNat (regBlock s x) := hmem
  have hnext : u.pc.toNat + 1 = s.i.toNat + k.val := by omega
  refine ⟨wordAtPc u, State.fetch_of_lt (by omega), ?_⟩
  rw [← wordOfBytes_eq_wordAtPc, toNat_wordOfBytes, hnext, hpc, hmem', read_regBlock hwf hle hk,
    read_regBlock hwf hle (by omega)]

/-! ### Accesses above 4095, and frames -/

/-- Settles O44: each of the four raises what its check reads off the state. -/
theorem outOfRangeAccessHalts : Obligations.OutOfRangeAccessHalts := by
  unfold Obligations.OutOfRangeAccessHalts
  refine ⟨?bcd, ?block, ?sprite⟩
  case bcd =>
    intro x s h
    exact exec_raises (if_pos h) (by decide)
  case block =>
    intro x s h
    exact ⟨exec_raises (if_pos h) (by decide), exec_raises (if_pos h) (by decide)⟩
  case sprite =>
    intro x y n s hn h
    exact exec_raises (if_pos ⟨hn, h⟩) (by decide)

/-- Settles O58: a store that completes leaves the bytes outside its block, and one that raises leaves all of them. -/
theorem frameOfStores : Obligations.FrameOfStores := by
  unfold Obligations.FrameOfStores
  constructor
  · intro x s t hwf h
    obtain ⟨hok, rfl⟩ | ⟨-, rfl⟩ := checked_cases h
    · refine ⟨.inl rfl, fun a ha => ?_⟩
      exact Memory.read_writeList_outside hwf (bcdDigits_fit s _ ((rangeOk_iff s 2).mp hok)) ha
    · exact ⟨.inr rfl, fun a _ => rfl⟩
  · intro x s t hwf h
    obtain ⟨hok, rfl⟩ | ⟨-, rfl⟩ := checked_cases h
    · refine ⟨.inl rfl, fun a ha => ?_⟩
      refine Memory.read_writeList_outside hwf (regBlock_fit ((rangeOk_iff s x.val).mp hok)) ?_
      rwa [length_regBlock]
    · exact ⟨.inr rfl, fun a _ => rfl⟩

end Sys2Proof.Machine
end

section
/-! PROOFS. Random, keys and timers (44_random_keys_timers.md R200 to R206). -/

namespace Sys2Proof.Machine

/-- A draw, then `pc + 2`, in the form the obligation asks. -/
theorem State.drawsIntoRegister {a : Answer} {s : State} {rnd : Byte} {x : Reg} {nn : Byte}
    (ha : a = .next (s.drawInto rnd x nn).advance) :
    ∃ t, a = .next t ∧ t = { s with v := t.v, pc := s.pc + 2, draws := s.draws + 1 } ∧
      t.reg x = rnd &&& nn ∧ ∀ r, r ≠ x → t.reg r = s.reg r := by
  refine ⟨_, ha, rfl, ?_, ?_⟩
  · rw [State.advance_reg, State.reg_drawInto, if_pos rfl]
  · intro r hr
    rw [State.advance_reg, State.reg_drawInto, if_neg hr]

/-- Settles O45: the given draw and the free one are both the byte that is masked. -/
theorem randomByteIsMasked : Obligations.RandomByteIsMasked := by
  unfold Obligations.RandomByteIsMasked
  intro x nn s
  exact ⟨fun rnd => State.drawsIntoRegister (execDraw_opCXNN rnd x nn s), State.drawsIntoRegister (exec_opCXNN x nn s)⟩

/-- Settles O46: a key code skips on the key's level, EXA1 on its negation, and any other byte fails the check. -/
theorem keySkipsTestTheKeyLevel : Obligations.KeySkipsTestTheKeyLevel := by
  unfold Obligations.KeySkipsTestTheKeyLevel
  intro x s
  refine ⟨?down, ?up, ?invalid⟩
  case down =>
    intro hle hdown
    rw [exec_opEX9E_of_le hle, exec_opEXA1_of_le hle, State.keyDown, hdown]
    exact ⟨rfl, rfl⟩
  case up =>
    intro hle hup
    rw [exec_opEX9E_of_le hle, exec_opEXA1_of_le hle, State.keyDown, hup]
    exact ⟨rfl, rfl⟩
  case invalid =>
    intro hgt
    exact ⟨exec_raises (if_pos hgt) (by decide), exec_raises (if_pos hgt) (by decide)⟩

/-- Settles O47: the upward scan stops at the least key that is down, and a key code below 16 is its own byte. -/
theorem waitForKeyTakesTheLowestKey : Obligations.WaitForKeyTakesTheLowestKey := by
  unfold Obligations.WaitForKeyTakesTheLowestKey
  intro x s
  constructor
  · intro k hk hdown hlow
    refine ⟨_, exec_opFX0A_key x (State.lowestKey_eq_some hk hdown hlow), rfl, ?_, ?_⟩
    · rw [State.advance_reg, State.resume_reg, State.reg_setReg_self, BitVec.toNat_ofNat]
      omega
    · intro r hr
      rw [State.advance_reg, State.resume_reg, s.reg_setReg_ne x r _ hr]
  · intro hup
    exact exec_opFX0A_blocked x (s.lowestKey_eq_none_iff.mpr hup)

/-- Settles O48: FX07 writes one register, FX15 and FX18 one timer. -/
theorem timerMovesCopyWholeBytes : Obligations.TimerMovesCopyWholeBytes := by
  unfold Obligations.TimerMovesCopyWholeBytes
  intro x s
  exact ⟨State.writesOneRegister (P := (· = s.dt)) (exec_opFX07 x s) rfl, exec_opFX15 x s, exec_opFX18 x s⟩

end Sys2Proof.Machine
end

section
/-! PROOFS. The host's operations (10_state.md R50 to R55, 70_reset_and_hazards.md R270 to R274). -/

namespace Sys2Proof.Machine

theorem State.loadProgram_of_le (s : State) {image : List Byte} (h : image.length ≤ 3584) :
    s.loadProgram image = some (s.storeBytes Config.progBase image) := if_pos (decide_eq_true h)

theorem State.loadProgram_of_gt (s : State) {image : List Byte} (h : 3584 < image.length) : s.loadProgram image = none :=
  if_neg (by rw [imageFits, decide_eq_true_iff]; exact Nat.not_le.mpr h)

/-- Settles O53: the load is a store of consecutive bytes that all exist. -/
theorem loadProgramCopiesTheImage : Obligations.LoadProgramCopiesTheImage := by
  unfold Obligations.LoadProgramCopiesTheImage
  intro s image hwf hle
  have hfit : Config.progBase + image.length ≤ Config.memSize := by
    rw [Config.progBase, Config.memSize]
    omega
  refine ⟨_, s.loadProgram_of_le hle, rfl, ?inside, ?outside, Memory.wf_writeList image s.mem _ hfit hwf⟩
  case inside =>
    intro k hk
    exact Memory.read_writeList_inside hwf hfit hk
  case outside =>
    intro a ha
    refine Memory.read_writeList_outside hwf hfit ?_
    rw [Config.progBase]
    omega

/-- Settles O55: each operation answers off the session's phase and core. -/
theorem hostOperationsKeepTheirWindows : Obligations.HostOperationsKeepTheirWindows := by
  unfold Obligations.HostOperationsKeepTheirWindows
  refine ⟨?off, fun _ _ => rfl, ?fits, ?tooLarge, ?keys, ?status, ?step, ?init⟩
  case off =>
    intro op hop
    cases op with
    | init => exact absurd rfl hop
    | _ => rfl
  case fits =>
    intro s image hle
    have hload := s.loadProgram_of_le hle
    exact ⟨_, hload, by simp [hostOp, hostLoad, hload]⟩
  case tooLarge =>
    intro s image hgt
    have hload := s.loadProgram_of_gt hgt
    simp [hostOp, hostLoad, hload]
  case keys =>
    intro s z k hcore
    simp only [hostOp, hcore]
    rfl
  case status =>
    intro s z hcore
    simp only [hostOp, hcore]
    rfl
  case step =>
    intro s t z rnd hcore hstep
    simp only [hostOp, hcore, hostStep, hstep]
  case init =>
    intro z
    cases hcore : z.core? with
    | none => exact ⟨State.reset, by simp only [hostOp, hcore], rfl⟩
    | some s => exact ⟨s.reinit, by simp only [hostOp, hcore], rfl⟩

end Sys2Proof.Machine
end

section
/-! PROOFS. Frames (41_control_flow.md, 42_register_alu.md, 43_index_memory.md, 45_display.md): what the instructions of each group
leave unchanged; and the codes of the error register (60_exceptions.md R230). -/

namespace Sys2Proof.Machine

/-- Settles O56: each instruction of the group writes `pc` last; those that raise leave all but `run` and `err`. -/
theorem frameOfControlTransfer : Obligations.FrameOfControlTransfer := by
  unfold Obligations.FrameOfControlTransfer
  refine ⟨?moves, ?ret, ?call, ?keys⟩
  case moves =>
    intro i s t hi h
    cases i with
    | op1NNN _ | opBNNN _ | op3XNN _ _ | op4XNN _ _ | op5XY0 _ _ | op9XY0 _ _ =>
      cases h
      exact ⟨rfl, fun _ => rfl⟩
    | _ => cases hi
  case ret =>
    intro s t h
    by_cases hsp : s.sp.val = 0
    · cases h.symm.trans (exec_op00EE_empty hsp)
      exact ⟨.inr rfl, fun _ => rfl⟩
    · obtain ⟨k, hk⟩ := s.exists_saved hsp
      cases h.symm.trans (exec_op00EE_of_saved k hk)
      exact ⟨.inl rfl, fun _ => rfl⟩
  case call =>
    intro nnn s t h
    by_cases hsp : s.sp.val < 16
    · cases h.symm.trans (exec_op2NNN_of_lt nnn hsp)
      exact ⟨.inl rfl, fun _ => rfl⟩
    · have hlt := s.sp.isLt
      cases h.symm.trans (exec_op2NNN_full nnn (by omega))
      exact ⟨.inr rfl, fun _ => rfl⟩
  case keys =>
    intro x s t h
    obtain h | h := h <;> obtain ⟨-, rfl⟩ | ⟨-, rfl⟩ := checked_cases h
    · exact ⟨.inl rfl, fun _ => rfl⟩
    · exact ⟨.inr rfl, fun _ => rfl⟩
    · exact ⟨.inl rfl, fun _ => rfl⟩
    · exact ⟨.inr rfl, fun _ => rfl⟩

/-- Settles O57: each group by the operation on the state its instructions share. -/
theorem frameOfComputation : Obligations.FrameOfComputation := by
  unfold Obligations.FrameOfComputation
  refine ⟨?plain, ?flag, ?random, ?wait, ?index, ?delay, ?sound, ?load⟩
  case plain =>
    intro i x s t hi h
    cases i with
    | op6XNN _ _ | op7XNN _ _ | op8XY0 _ _ | op8XY1 _ _ | op8XY2 _ _ | op8XY3 _ _ | opFX07 _ =>
      cases hi
      cases h
      exact ⟨rfl, fun r hr => s.reg_setReg_ne x r _ hr, fun _ => rfl⟩
    | _ => cases hi
  case flag =>
    intro i x s t hi h
    cases i with
    | op8XY4 _ _ | op8XY5 _ _ | op8XY6 _ _ | op8XY7 _ _ | op8XYE _ _ =>
      cases hi
      cases h
      refine ⟨rfl, fun r hrx hrf => ?_, fun _ => rfl⟩
      exact s.reg_flagThenReg_advance_ne _ _ hrx hrf
    | _ => cases hi
  case random =>
    intro x nn s t h
    cases h
    exact ⟨rfl, fun r hr => s.reg_setReg_ne x r _ hr, fun _ => rfl⟩
  case wait =>
    intro x s t h
    cases hk : s.lowestKey with
    | none =>
      cases h.symm.trans (exec_opFX0A_blocked x hk)
      exact ⟨rfl, fun _ _ => rfl, fun _ => rfl⟩
    | some k =>
      cases h.symm.trans (exec_opFX0A_key x hk)
      exact ⟨rfl, fun r hr => s.reg_setReg_ne x r _ hr, fun _ => rfl⟩
  case index =>
    intro i s t hi h
    cases i with
    | opANNN _ | opFX1E _ | opFX29 _ =>
      cases h
      exact ⟨rfl, fun _ => rfl⟩
    | _ => cases hi
  case delay | sound =>
    intro x s t h
    cases h
    exact ⟨rfl, fun _ => rfl⟩
  case load =>
    intro x s t h
    obtain ⟨-, rfl⟩ | ⟨-, rfl⟩ := checked_cases h
    · exact ⟨.inl rfl, fun r hr => (s.reg_loadBlock x r).trans (if_neg (Nat.not_le.mpr hr)), fun _ => rfl⟩
    · exact ⟨.inr rfl, fun _ _ => rfl, fun _ => rfl⟩

/-- Settles O59: 00E0 shows a display, DXYN writes `VF` and shows a display, or raises. -/
theorem frameOfDisplayInstructions : Obligations.FrameOfDisplayInstructions := by
  unfold Obligations.FrameOfDisplayInstructions
  constructor
  · intro s t h
    cases h
    exact ⟨rfl, fun _ => rfl⟩
  · intro x y n s t h
    obtain ⟨-, rfl⟩ | ⟨-, rfl⟩ := checked_cases h
    · exact ⟨.inl rfl, fun r hr => s.reg_setReg_ne vf r _ hr, fun _ => rfl⟩
    · exact ⟨.inr rfl, fun _ _ => rfl, fun _ => rfl⟩

/-- An access whose last byte lies above 4095 is what the check of its instruction finds. -/
theorem instrError_of_lastOffset {i : Instr} {last : Nat} {s : State} (hlast : lastOffset i = some last)
    (h : 4095 < s.i.toNat + last) : instrError i s = .outOfBoundsAccess := by
  cases i with
  | opDXYN x y n =>
    by_cases hn : 1 ≤ n.val
    · rw [lastOffset, if_pos hn] at hlast
      cases hlast
      exact if_pos ⟨hn, by omega⟩
    · rw [lastOffset, if_neg hn] at hlast
      cases hlast
  | opFX33 x | opFX55 x | opFX65 x =>
    cases hlast
    exact if_pos h
  | _ => cases hlast

/-- Settles O60: each code is that of the kind the halt entry records. -/
theorem errorCodesAreThoseOfTheTable : Obligations.ErrorCodesAreThoseOfTheTable := by
  unfold Obligations.ErrorCodesAreThoseOfTheTable
  refine ⟨rfl, fun _ => rfl, ?fetch, ?word, ?call, ?ret, ?access, ?key⟩
  case fetch =>
    intro s hr hge
    exact ⟨_, step_of_fetch_none hr (State.fetch_of_ge hge), rfl, rfl⟩
  case word =>
    intro s w hr hf hw
    exact ⟨_, step_of_wordLegal_false hr hf hw, rfl, rfl⟩
  case call =>
    intro nnn s hfull
    exact ⟨_, exec_op2NNN_full nnn hfull, rfl, rfl⟩
  case ret =>
    intro s hempty
    exact ⟨_, exec_op00EE_empty hempty, rfl, rfl⟩
  case access =>
    intro i last s hlast h
    exact ⟨_, exec_raises (instrError_of_lastOffset hlast h) (by decide), rfl, rfl⟩
  case key =>
    intro i x s hi h
    have herr : instrError i s = .invalidKeyIndex := by
      obtain rfl | rfl := hi <;> exact if_pos h
    exact ⟨_, exec_raises herr (by decide), rfl, rfl⟩

end Sys2Proof.Machine
end

section
/-! PROOFS. Sprites (45_display.md R221 to R223). A sprite is a list of cells, one for each set bit, none listed twice; drawing it flips
those cells in turn, so each cell it covers is met once, as it was before the instruction. -/

namespace Sys2Proof.Machine

/-! ### Flipping a list of cells -/

/-- One lit pixel of a sprite: flip its cell, and count a collision when the cell was lit. -/
def flipCell (a : Display × Bool) (k : Nat) : Display × Bool := (toggleCell a.1 k, a.2 || cellLit a.1 k)

theorem foldl_flipCell (cells : List Nat) : ∀ (a : Display × Bool), (∀ k ∈ cells, k < 2048) → cells.Nodup →
    (∀ j, cellLit (cells.foldl flipCell a).1 j = (cellLit a.1 j ^^ decide (j ∈ cells))) ∧
      (cells.foldl flipCell a).2 = (a.2 || cells.any (cellLit a.1)) := by
  induction cells with
  | nil => intro a _ _; simp
  | cons k cells ih =>
    intro a hlt hnd
    obtain ⟨hk, hnd⟩ := List.nodup_cons.mp hnd
    obtain ⟨hcell, hcoll⟩ := ih (flipCell a k) (fun j hj => hlt j (List.mem_cons_of_mem k hj)) hnd
    have htog : ∀ j, cellLit (flipCell a k).1 j = (cellLit a.1 j ^^ decide (j = k)) :=
      fun j => cellLit_toggleCell a.1 k j (hlt k List.mem_cons_self)
    constructor
    · intro j
      rw [List.foldl_cons, hcell, htog]
      by_cases hj : j = k
      · subst hj; simp [hk]
      · simp [hj]
    · have hany : cells.any (cellLit (flipCell a k).1) = cells.any (cellLit a.1) := by
        rw [Bool.eq_iff_iff, List.any_eq_true, List.any_eq_true]
        refine exists_congr fun j => and_congr_right fun hj => ?_
        have hne : j ≠ k := fun h => hk (h ▸ hj)
        rw [htog, decide_eq_false hne, Bool.xor_false]
      rw [List.foldl_cons, hcoll, hany, List.any_cons, ← Bool.or_assoc]
      rfl

/-! ### The cells of a sprite -/

/-- The cells of one sprite row's set bits, left to right. -/
def rowCells (x0 y0 b : Byte) (row : Nat) : List Nat :=
  ((List.range 8).filter (spriteBitSet b)).map (spriteCell x0 y0 row)

/-- The cells of a sprite's set bits, from row offset `row` down. -/
def spriteCells (x0 y0 : Byte) : Nat → List Byte → List Nat
  | _, [] => []
  | row, b :: bs => rowCells x0 y0 b row ++ spriteCells x0 y0 (row + 1) bs

theorem drawRow_eq_foldl (x0 y0 b : Byte) (row : Nat) (a : Display × Bool) :
    drawRow x0 y0 b row a = (rowCells x0 y0 b row).foldl flipCell a := by
  rw [rowCells, List.foldl_map, List.foldl_filter]
  rfl

theorem drawRows_eq_foldl (x0 y0 : Byte) (bs : List Byte) : ∀ (row : Nat) (a : Display × Bool),
    drawRows x0 y0 row bs a = (spriteCells x0 y0 row bs).foldl flipCell a := by
  induction bs with
  | nil => intro row a; rfl
  | cons b bs ih =>
    intro row a
    rw [drawRows, ih, drawRow_eq_foldl, spriteCells, List.foldl_append]

theorem mem_rowCells {x0 y0 b : Byte} {row k : Nat} :
    k ∈ rowCells x0 y0 b row ↔ ∃ col, col < 8 ∧ spriteBitSet b col = true ∧ k = spriteCell x0 y0 row col := by
  simp only [rowCells, List.mem_map, List.mem_filter, List.mem_range, and_assoc, eq_comm (a := k)]

theorem mem_spriteCells {x0 y0 : Byte} {k : Nat} (bs : List Byte) : ∀ row : Nat,
    k ∈ spriteCells x0 y0 row bs ↔ ∃ j col, ∃ h : j < bs.length, col < 8 ∧ spriteBitSet bs[j] col = true ∧
      k = spriteCell x0 y0 (row + j) col := by
  induction bs with
  | nil => intro row; simp [spriteCells]
  | cons b bs ih =>
    intro row
    rw [spriteCells, List.mem_append, mem_rowCells, ih]
    constructor
    · rintro (⟨col, hcol, hset, rfl⟩ | ⟨j, col, hj, hcol, hset, rfl⟩)
      · exact ⟨0, col, Nat.succ_pos _, hcol, hset, rfl⟩
      · exact ⟨j + 1, col, Nat.succ_lt_succ hj, hcol, hset, by rw [Nat.add_right_comm, Nat.add_assoc]⟩
    · rintro ⟨j, col, hj, hcol, hset, rfl⟩
      cases j with
      | zero => exact .inl ⟨col, hcol, hset, rfl⟩
      | succ j => exact .inr ⟨j, col, Nat.lt_of_succ_lt_succ hj, hcol, hset, by rw [Nat.add_right_comm, Nat.add_assoc]⟩

/-- Two pixels of a sprite share a cell only when they are the same pixel (rows fewer than 32 apart, columns fewer than 64). -/
theorem spriteCell_inj {x0 y0 : Byte} {row row' col col' : Nat} (hcol : col < 8) (hcol' : col' < 8) (hle : row ≤ row')
    (hrow : row' < row + 32) (h : spriteCell x0 y0 row col = spriteCell x0 y0 row' col') : row = row' ∧ col = col' := by
  simp only [spriteCell, Config.dispH, Config.dispW] at h
  omega

theorem nodup_rowCells (x0 y0 b : Byte) (row : Nat) : (rowCells x0 y0 b row).Nodup := by
  refine List.Nodup.map_on ?_ (List.nodup_range.filter _)
  intro c hc c' hc' h
  exact (spriteCell_inj (List.mem_range.mp (List.mem_of_mem_filter hc)) (List.mem_range.mp (List.mem_of_mem_filter hc'))
    le_rfl (by omega) h).2

theorem nodup_spriteCells (x0 y0 : Byte) (bs : List Byte) : ∀ row : Nat, bs.length ≤ 32 →
    (spriteCells x0 y0 row bs).Nodup := by
  induction bs with
  | nil => intro row _; exact List.nodup_nil
  | cons b bs ih =>
    intro row hlen
    rw [List.length_cons] at hlen
    refine List.Nodup.append (nodup_rowCells x0 y0 b row) (ih (row + 1) (by omega)) ?_
    intro k hrow hrest
    obtain ⟨col, hcol, -, rfl⟩ := mem_rowCells.mp hrow
    obtain ⟨j, col', hj, hcol', -, h⟩ := (mem_spriteCells bs (row + 1)).mp hrest
    have hrows := (spriteCell_inj hcol hcol' (by omega) (by omega) h).1
    omega

/-! ### A sprite drawn from a state -/

/-- The cells of the sprite DXYN draws. -/
def State.cells (s : State) (x y : Reg) (n : Nat) : List Nat :=
  spriteCells (s.reg x) (s.reg y) 0 (s.mem.readList s.i.toNat n)

theorem State.mem_cells {s : State} {x y : Reg} {n k : Nat} : k ∈ s.cells x y n ↔ SpriteCovers s x y n k := by
  rw [State.cells, mem_spriteCells, SpriteCovers]
  constructor
  · rintro ⟨j, col, hj, hcol, hset, hk⟩
    rw [Memory.getElem_readList] at hset
    rw [Memory.length_readList] at hj
    rw [Nat.zero_add] at hk
    exact ⟨j, col, hj, hcol, hset, hk⟩
  · rintro ⟨row, col, hrow, hcol, hset, hk⟩
    refine ⟨row, col, by rwa [Memory.length_readList], hcol, ?_, ?_⟩
    · rwa [Memory.getElem_readList]
    · rwa [Nat.zero_add]

theorem SpriteCovers.lt {s : State} {x y : Reg} {n k : Nat} (h : SpriteCovers s x y n k) : k < 2048 := by
  obtain ⟨row, col, -, -, -, rfl⟩ := h
  exact spriteCell_lt _ _ row col

/-- What a draw does: it flips the cells the sprite covers, and it collides exactly when one of them was lit. -/
theorem State.sprite_spec (s : State) (x y : Reg) (n : Fin 16) :
    (∀ k, cellLit (s.sprite x y n.val).1 k = (cellLit s.disp k ^^ decide (k ∈ s.cells x y n.val))) ∧
      (s.sprite x y n.val).2 = (s.cells x y n.val).any (cellLit s.disp) := by
  have hlen : (s.mem.readList s.i.toNat n.val).length ≤ 32 := by rw [Memory.length_readList]; omega
  have hspec := foldl_flipCell (s.cells x y n.val) (s.disp, false)
    (fun k hk => (State.mem_cells.mp hk).lt) (nodup_spriteCells _ _ _ 0 hlen)
  rw [Bool.false_or] at hspec
  rw [State.sprite, drawRows_eq_foldl]
  exact hspec

theorem State.cellLit_sprite_covered {s : State} {x y : Reg} {n : Fin 16} {k : Nat} (h : SpriteCovers s x y n.val k) :
    cellLit (s.sprite x y n.val).1 k = !cellLit s.disp k := by
  rw [(s.sprite_spec x y n).1, decide_eq_true (State.mem_cells.mpr h), Bool.xor_true]

theorem State.cellLit_sprite_uncovered {s : State} {x y : Reg} {n : Fin 16} {k : Nat} (h : ¬ SpriteCovers s x y n.val k) :
    cellLit (s.sprite x y n.val).1 k = cellLit s.disp k := by
  rw [(s.sprite_spec x y n).1, decide_eq_false (mt State.mem_cells.mp h), Bool.xor_false]

theorem State.sprite_collides_iff (s : State) (x y : Reg) (n : Fin 16) :
    (s.sprite x y n.val).2 = true ↔ ∃ k, k < 2048 ∧ cellLit s.disp k = true ∧ SpriteCovers s x y n.val k := by
  rw [(s.sprite_spec x y n).2, List.any_eq_true]
  constructor
  · rintro ⟨k, hk, hlit⟩
    have hcov := State.mem_cells.mp hk
    exact ⟨k, hcov.lt, hlit, hcov⟩
  · rintro ⟨k, -, hlit, hcov⟩
    exact ⟨k, State.mem_cells.mpr hcov, hlit⟩

theorem flagByte_eq_one_iff (c : Bool) : flagByte c = 1 ↔ c = true := by
  cases c <;> decide

/-- The state after a draw: the display of the sprite, and the collision in `VF`. -/
theorem exec_opDXYN_spec (x y : Reg) {n : Fin 16} {s : State} (h : n.val = 0 ∨ s.i.toNat + n.val - 1 ≤ 4095) :
    ∃ t, exec (.opDXYN x y n) s = .next t ∧ t = { s with v := t.v, disp := t.disp, redraw := true, pc := s.pc + 2 } ∧
      (∀ r, r ≠ 15 → t.reg r = s.reg r) ∧ t.disp = (s.sprite x y n.val).1 ∧
      t.reg 15 = flagByte (s.sprite x y n.val).2 :=
  ⟨_, exec_opDXYN_of_le x y h, rfl, fun r hr => s.reg_setReg_ne vf r _ hr, rfl, s.reg_setReg_self vf _⟩

/-! ### The obligations -/

/-- Settles O50: the cells listed are the covered ones, each flipped once, and the flag says whether one of them was lit. -/
theorem drawFlipsTheCellsTheSpriteCovers : Obligations.DrawFlipsTheCellsTheSpriteCovers := by
  unfold Obligations.DrawFlipsTheCellsTheSpriteCovers
  intro x y n s hle
  obtain ⟨t, ht, hframe, hregs, hdisp, hflag⟩ := exec_opDXYN_spec x y hle
  refine ⟨t, ht, hframe, hregs, ?covered, ?uncovered, ?collision, ?noCollision⟩
  case covered =>
    intro k _ hcov
    rw [hdisp, State.cellLit_sprite_covered hcov]
  case uncovered =>
    intro k _ hcov
    rw [hdisp, State.cellLit_sprite_uncovered hcov]
  case collision =>
    intro hex
    rw [hflag, (s.sprite_collides_iff x y n).mpr hex]
    rfl
  case noCollision =>
    intro hno
    rw [hflag, Bool.eq_false_iff.mpr (mt (s.sprite_collides_iff x y n).mp hno)]
    rfl

theorem spriteCovers_congr {s u : State} {x y : Reg} (hmem : u.mem = s.mem) (hi : u.i = s.i) (hx : u.reg x = s.reg x)
    (hy : u.reg y = s.reg y) (n k : Nat) : SpriteCovers u x y n k ↔ SpriteCovers s x y n k := by
  rw [SpriteCovers, SpriteCovers, hmem, hi, hx, hy]

theorem spriteHasSetBit_iff_covers (s : State) (x y : Reg) (n : Nat) : SpriteHasSetBit s n ↔ ∃ k, SpriteCovers s x y n k := by
  constructor
  · rintro ⟨row, col, hrow, hcol, hset⟩
    exact ⟨_, row, col, hrow, hcol, hset, rfl⟩
  · rintro ⟨_, row, col, hrow, hcol, hset, -⟩
    exact ⟨row, col, hrow, hcol, hset⟩

/-- Settles O51: both draws cover the same cells, and a covered cell that was unlit is lit when the second draw meets it. -/
theorem drawingTwiceRestoresTheDisplay : Obligations.DrawingTwiceRestoresTheDisplay := by
  unfold Obligations.DrawingTwiceRestoresTheDisplay
  intro x y n s t u hle hfirst hdisp hmem hi hx hy
  have hcovers := spriteCovers_congr hmem hi hx hy n.val
  have hudisp : u.disp = (s.sprite x y n.val).1 := by
    cases hfirst.symm.trans (exec_opDXYN_of_le x y hle)
    exact hdisp
  obtain ⟨r, hr, -, -, hrdisp, hrflag⟩ := exec_opDXYN_spec x y (s := u) (by rwa [hi])
  refine ⟨r, hr, ?restored, ?collision⟩
  case restored =>
    intro k _
    rw [hrdisp]
    by_cases hcov : SpriteCovers s x y n.val k
    · rw [State.cellLit_sprite_covered ((hcovers k).mpr hcov), hudisp, State.cellLit_sprite_covered hcov, Bool.not_not]
    · rw [State.cellLit_sprite_uncovered (mt (hcovers k).mp hcov), hudisp, State.cellLit_sprite_uncovered hcov]
  case collision =>
    intro hunlit
    rw [hrflag, flagByte_eq_one_iff, u.sprite_collides_iff, spriteHasSetBit_iff_covers s x y]
    constructor
    · rintro ⟨k, -, -, hcov⟩
      exact ⟨k, (hcovers k).mp hcov⟩
    · rintro ⟨k, hcov⟩
      refine ⟨k, hcov.lt, ?_, (hcovers k).mpr hcov⟩
      rw [hudisp, State.cellLit_sprite_covered hcov, hunlit k hcov.lt hcov, Bool.not_false]

/-- The reset state with `I` at the glyph of 0, whose first byte 0xF0 covers cells 0 to 3, and these four cells lit. -/
def litUnderGlyph : State := { State.reset with i := 0x050, disp := (Vector.replicate 32 0).set 0 0xF }

/-- The state after the first draw but for the elements a second draw does not look at. -/
def clearedUnderGlyph : State := { litUnderGlyph with disp := clearDisplay }

theorem sprite_litUnderGlyph : (litUnderGlyph.sprite 0 0 1).1 = clearDisplay := by decide

/-- Refutes O52: over cells that were all lit the first draw clears them and the second meets none lit, so it reports 0 although the
sprite row has set bits. -/
theorem not_secondDrawCollidesWhateverWasLit : ¬ Obligations.SecondDrawCollidesWhateverWasLit := by
  unfold Obligations.SecondDrawCollidesWhateverWasLit
  intro h
  have hle : (1 : Fin 16).val = 0 ∨ litUnderGlyph.i.toNat + (1 : Fin 16).val - 1 ≤ 4095 := by decide
  obtain ⟨r, hr, hiff⟩ := h 0 0 1 litUnderGlyph _ clearedUnderGlyph hle (exec_opDXYN_of_le 0 0 hle)
    sprite_litUnderGlyph.symm rfl rfl rfl rfl
  cases hr.symm.trans (exec_opDXYN_of_le 0 0 (s := clearedUnderGlyph) hle)
  have hbit : SpriteHasSetBit litUnderGlyph 1 := ⟨0, 0, by decide, by decide, by decide⟩
  have hone := hiff.mpr hbit
  rw [State.advance_reg, State.showDisplay_reg] at hone
  have hcoll := (flagByte_eq_one_iff _).mp ((clearedUnderGlyph.reg_setReg_self vf _).symm.trans hone)
  exact absurd hcoll (by decide)

end Sys2Proof.Machine
end
